-- ==== Sys2Proof/Word.lean ====
section
/-! DEFINITION. The one data type of the hardware, the 32-bit unsigned integer (00_scope.md R7, 10_state.md R20), and its
narrowing from the naturals. Bit `i` of a word is the bit of weight `2^i` (R12; PRESUMED, log entry 1). -/

namespace Sys2Proof

/-- A 32-bit unsigned value: a prompt, a response or any named value of the datapath (R7, R42). -/
abbrev Word := BitVec 32

/-- `trunc32(n) = n mod 2^32` (00_scope.md section 5.1). -/
def trunc32 (n : Nat) : Word := BitVec.ofNat 32 n

end Sys2Proof
end

