-- ==== Sys2Proof/Config.lean ====
section
/-! DEFINITION. The configuration record of the block (00_scope.md R7 to R9, 92_eei_decisions.md D9) and the two open
parameters of its environment. The record's value for this hardware stands in Machine/Constants.lean; its check stands in
WellFormed.lean. -/

namespace Sys2Proof

/-- What is fixed before the first call and for all calls (10_state.md R23, 20_memory.md R35). -/
structure Config where
  /-- `W`, the word width (R7). -/
  width : Nat
  /-- `NPAIRS`, the number of pairs (R9). -/
  npairs : Nat
  /-- `MUL_CONST` (R8). -/
  mulConst : Word
  /-- `XOR_CONST` (R8). -/
  xorConst : Word
  /-- `SWAP_TABLE`, a set of unordered pairs of bit indices, listed in some order (R9, R66). -/
  swapTable : List (Nat × Nat)
  deriving DecidableEq, Repr

/-- The indices the table mentions, 16 of them for a table of 8 pairs (R10). -/
def Config.indices (c : Config) : List Nat := c.swapTable.flatMap fun p => [p.1, p.2]

/-- FRAME_BYTE_ORDER: the order in which the caller sends the four bytes of a response (20_memory.md R26, D8, U6). Open; no
definition reads it (log entry 12). -/
opaque Config.frameByteOrder : List (Fin 4)

/-- T_PD: the delay from operand to result, a non-negative real (70_reset_and_hazards.md R107, D11, U5). Open; no definition
reads it (log entry 12). -/
opaque Config.tPd : NNReal

end Sys2Proof
end

