-- ==== Sys2Proof/Syntax.lean ====
section
/-! DEFINITION. Units, ports, wires, the three operations of spec/opcode_table.json, and the stimulus notation in which the
environment writes its calls (10_state.md R16, 30_encoding.md R37 to R40 and R50). -/

namespace Sys2Proof

/-- The three units, each with one operation (30_encoding.md R38). -/
inductive UnitId where
  | core
  | mixer
  | swapper
  deriving DecidableEq, Repr

/-- The ports of the three units; there is no other port of any kind (10_state.md R16). -/
inductive Port where
  | corePrompt
  | coreResponse
  | mixerPrompt
  | mixerMixed
  | swapperX
  | swapperY
  deriving DecidableEq, Repr

/-- Direction of a port (10_state.md R16). -/
inductive Direction where
  | input
  | output
  deriving DecidableEq, Repr

/-- The unit a port belongs to (R16). -/
def Port.unit : Port → UnitId
  | .corePrompt | .coreResponse => .core
  | .mixerPrompt | .mixerMixed => .mixer
  | .swapperX | .swapperY => .swapper

/-- The direction of a port (R16). -/
def Port.direction : Port → Direction
  | .corePrompt | .mixerPrompt | .swapperX => .input
  | .coreResponse | .mixerMixed | .swapperY => .output

/-- The number of wires of a port (R16, R28). -/
def Port.width : Port → Nat
  | .corePrompt | .coreResponse | .mixerPrompt | .mixerMixed | .swapperX | .swapperY => 32

/-- A unit's operand port (R38). -/
def UnitId.operandPort : UnitId → Port
  | .core => .corePrompt
  | .mixer => .mixerPrompt
  | .swapper => .swapperX

/-- A unit's result port (R38). -/
def UnitId.resultPort : UnitId → Port
  | .core => .coreResponse
  | .mixer => .mixerMixed
  | .swapper => .swapperY

/-- What stands on one wire of an operand port: a bit, nothing driven (Z), or not known which bit (X) (10_state.md R22). -/
inductive Wire where
  | zero
  | one
  | undriven
  | unknown
  deriving DecidableEq, Repr

/-- The operations, one constructor for each row of spec/opcode_table.json, with the one operand of format UNARY32
(30_encoding.md R38, R39). An `Instr` is one call: an operation and its fully defined operand (10_state.md R15). -/
inductive Instr where
  /-- MIX (R51), the operation of MIXER. -/
  | mix (prompt : Word)
  /-- SWAP (R59), the operation of SWAPPER. -/
  | swap (x : Word)
  /-- COMPUTE (R71), the operation of CORE. -/
  | compute (prompt : Word)
  deriving DecidableEq, Repr

/-- The unit that performs an operation (R38). -/
def Instr.unit : Instr → UnitId
  | .mix _ => .mixer
  | .swap _ => .swapper
  | .compute _ => .core

/-- The operand of a call (R39). -/
def Instr.operand : Instr → Word
  | .mix prompt => prompt
  | .swap x => x
  | .compute prompt => prompt

/-- A variable of the environment, bound to a result it took (30_encoding.md R50). Only which names are equal matters, so a
name is a number (DESIGN CHOICE, log entry 4). -/
abbrev Name := Nat

/-- The spellings of an operation in a stimulus line: the three mnemonics and the three aliases (30_encoding.md R50, C1). -/
inductive Spelling where
  | MIX
  | SWAP
  | COMPUTE
  /-- `compute(p)`, which is `COMPUTE p`. -/
  | computeAlias
  /-- `compute_response(p)`, which is `COMPUTE p`. -/
  | computeResponseAlias
  /-- `S(x)`, which is `SWAP x`. -/
  | sAlias
  deriving DecidableEq, Repr

/-- The unit a spelling addresses (30_encoding.md R50). -/
def Spelling.unit : Spelling → UnitId
  | .MIX => .mixer
  | .SWAP | .sAlias => .swapper
  | .COMPUTE | .computeAlias | .computeResponseAlias => .core

/-- The operand of a line. The notation of 30_encoding.md R50 has the first two forms; the third is an operand port as the
environment really drives it, wire 0 first, which need not be 32 defined bits (10_state.md R22); that a line may hold it is
the model's choice (DESIGN CHOICE, log entry 7). -/
inductive Operand where
  | literal (v : Word)
  | name (n : Name)
  | wires (ws : List Wire)
  deriving DecidableEq, Repr

/-- A line of a stimulus program (30_encoding.md R50). -/
inductive Line where
  /-- `<dst> = <MNEMONIC> <operand>`, the call made on the instance of that number of the unit: any number of instances of a
  unit may exist (60_exceptions.md R94; log entry 11). -/
  | call (dst : Name) (spelling : Spelling) (inst : Nat) (operand : Operand)
  /-- `EXPECT <name> == <operand>`. -/
  | expect (name : Name) (operand : Operand)
  deriving DecidableEq, Repr

end Sys2Proof
end

