-- ==== Sys2Proof/WellFormed.lean ====
section
/-! DEFINITION. The checks: of a configuration when it is built (00_scope.md R10, 70_reset_and_hazards.md R101, D9, U1), of an
instruction (every one is well formed, 30_encoding.md R48), of the wires of an operand port (10_state.md R22) and of a
stimulus program (30_encoding.md R50). -/

namespace Sys2Proof

/-- Why a configuration is refused when it is built (log entry 13). -/
inductive ConfigError where
  /-- `W` is not the width of the model's words (R7). -/
  | width
  /-- `NPAIRS` is not the number of pairs listed (R9). -/
  | npairs
  /-- An index is not in `0..W-1` (R9: "each index in [0,31]"). -/
  | indexRange
  /-- An index appears twice (R10, U1). -/
  | repeatedIndex
  deriving DecidableEq, Repr

/-- Building a configuration: the record itself if it passes the checks, else the first check it fails. -/
def Config.build (c : Config) : Except ConfigError Config :=
  if c.width ≠ 32 then .error .width
  else if c.swapTable.length ≠ c.npairs then .error .npairs
  else if ¬ ∀ i ∈ c.indices, i < c.width then .error .indexRange
  else if ¬ c.indices.Nodup then .error .repeatedIndex
  else .ok c

/-- A well-formed configuration is one that can be built. -/
abbrev Config.WF (c : Config) : Prop := c.build = .ok c

/-- Every call is well formed: "all 2^32 values are legal" (30_encoding.md R48). -/
def Instr.wf : Instr → Bool
  | .mix _ => true
  | .swap _ => true
  | .compute _ => true

/-- A wire that carries a bit. -/
def Wire.defined : Wire → Bool
  | .zero => true
  | .one => true
  | .undriven => false
  | .unknown => false

/-- The wires of an operand port carry an operand: 32 of them, each a bit (10_state.md R15, R22). -/
def wiresWf (ws : List Wire) : Bool := ws.length == 32 && ws.all Wire.defined

/-- An operand that has a value where the names of `bound` are bound (30_encoding.md R50). -/
def Operand.wf (bound : List Name) : Operand → Bool
  | .literal _ => true
  | .name n => decide (n ∈ bound)
  | .wires ws => wiresWf ws

/-- A line that can be executed where the names of `bound` are bound. -/
def Line.wf (bound : List Name) : Line → Bool
  | .call _ _ _ op => op.wf bound
  | .expect n op => decide (n ∈ bound) && op.wf bound

/-- The names bound after a line. -/
def Line.binds (bound : List Name) : Line → List Name
  | .call dst _ _ _ => dst :: bound
  | .expect _ _ => bound

/-- A stimulus program that uses a name only after the line that binds it (30_encoding.md R50). -/
def programWf (bound : List Name) : List Line → Bool
  | [] => true
  | l :: rest => l.wf bound && programWf (l.binds bound) rest

end Sys2Proof
end

