-- ==== Sys2Proof/Machine/Constants.lean ====
section
/-! DEFINITION. The constants of this hardware (00_scope.md R7 to R11). They are wiring: no state holds them and no operation
writes them (10_state.md R19, R41). -/

namespace Sys2Proof.Machine

/-- The configuration of this hardware (R7, R8, R9). UNVERIFIED against the design's repository (R11, log entry 2). -/
def hardware : Config where
  width := 32
  npairs := 8
  mulConst := 0x4D9B29A1#32
  xorConst := 0x6982510D#32
  swapTable := [(31, 4), (10, 11), (15, 13), (3, 1), (12, 23), (25, 5), (18, 29), (14, 6)]

/-- `MUL_INV`, the inverse of `MUL_CONST` modulo `2^32` (40_mix.md R56). For tests and proofs: no operation uses it. -/
def mulInv : Word := 0x52CEFA61#32

end Sys2Proof.Machine
end

