-- ==== Sys2Proof/Decode.lean ====
section
/-! DEFINITION. Reading the operand wires of a unit as a call, and writing a call as wires. There is no opcode to decode: a
unit's decoder always gives the unit's one operation (30_encoding.md R37), so what is decoded is the unit addressed and the
32 wires of its operand port (R39, R50), wire `k` carrying bit `k` (00_scope.md R12). It refuses, by name, wires that are not
an operand (10_state.md R22). -/

namespace Sys2Proof

/-- Why the wires of an operand port are no operand (10_state.md R22, D7, U2; log entry 7). -/
inductive DecodeError where
  /-- The port has 32 wires, not this many (R16, R28). -/
  | portWidth (wires : Nat)
  /-- The lowest wire that carries no bit, wire `k`, is undriven. -/
  | undriven (k : Nat)
  /-- The lowest wire that carries no bit, wire `k`, is unknown (among others, driven both ways by two callers: U8). -/
  | unknown (k : Nat)
  deriving DecidableEq, Repr

/-- A bit on a wire. -/
def Wire.ofBool (b : Bool) : Wire := if b then .one else .zero

/-- The number on a list of wires, the head the wire of number `k` and the bit of lowest weight (00_scope.md R12). -/
def natOfWires (k : Nat) : List Wire → Except DecodeError Nat
  | [] => .ok 0
  | w :: ws =>
    match w with
    | .zero => (natOfWires (k + 1) ws).map fun n => 2 * n
    | .one => (natOfWires (k + 1) ws).map fun n => 2 * n + 1
    | .undriven => .error (.undriven k)
    | .unknown => .error (.unknown k)

/-- The operand word on the wires of a port (30_encoding.md R39). -/
def wordOfWires (ws : List Wire) : Except DecodeError Word :=
  if ws.length = 32 then (natOfWires 0 ws).map fun n => BitVec.ofNat 32 n
  else .error (.portWidth ws.length)

/-- The low `n` bits of `v` on wires, bit 0 first (00_scope.md R12). -/
def wiresOfNat : Nat → Nat → List Wire
  | 0, _ => []
  | n + 1, v => Wire.ofBool (v % 2 == 1) :: wiresOfNat n (v / 2)

/-- A word on the 32 wires of a port. -/
def wiresOfWord (v : Word) : List Wire := wiresOfNat 32 v.toNat

/-- The one operation of a unit, on an operand (30_encoding.md R37, R38). -/
def UnitId.call : UnitId → Word → Instr
  | .core, v => .compute v
  | .mixer, v => .mix v
  | .swapper, v => .swap v

/-- The call that a unit makes of what stands on its operand wires. -/
def decode (u : UnitId) (ws : List Wire) : Except DecodeError Instr :=
  (wordOfWires ws).map u.call

/-- The unit a call addresses and the wires of its operand (30_encoding.md R50). -/
def encode (i : Instr) : UnitId × List Wire := (i.unit, wiresOfWord i.operand)

/-- The operand wires of a number laid out as spec/opcode_table.json numbers bits: bit `k` on wire `k`, zeros above `nbits`,
32 wires unless `nbits` asks for more (log entry 6). -/
def tableWires (nbits w : Nat) : List Wire := wiresOfNat (max 32 nbits) (w % 2 ^ nbits)

/-- The unit the host's words are given to. The table's rows have zero opcode bits, so a word cannot say which unit it is
for; CORE is the unit of the single exposed operation (30_encoding.md R37, R38; DESIGN CHOICE, log entry 6). -/
def tableUnit : UnitId := .core

/-- The call that `tableUnit` makes of a word numbered as the table numbers it. -/
def decodeTableWord (nbits w : Nat) : Option Instr := (decode tableUnit (tableWires nbits w)).toOption

end Sys2Proof
end

