-- ==== Sys2Proof/Machine/State.lean ====
section
/-! DEFINITION. The parameter of a run, the sequence of calls (10_state.md R23), which is no state. The state: nothing in the
block (R13), and what changes in the environment that makes the calls (R15; 30_encoding.md R50). The reasons a step can stop.
Reset. -/

namespace Sys2Proof.Machine

/-- What the block stores from one call to the next: nothing. "zero bits of storage survive a call" (10_state.md R13, R21). -/
structure Storage where
  deriving DecidableEq, Repr

/-- What is fixed for a whole run and is no state (10_state.md R23): the sequence of calls the environment makes. The other
parameters of R23, the configuration and the derived constants, are the constant `hardware` and functions of it. -/
structure Parameters where
  /-- The environment's lines, the first one first: the "program" of 95_test_vectors.md (R23; 30_encoding.md R50). -/
  program : List Line
  deriving DecidableEq, Repr

/-- The machine between two calls, with the parameters of its run. `parameters` is no state: no step changes it. It is carried
here because the host's `step` takes nothing but a `State` (log entry 3). -/
structure State where
  /-- The parameters of the run, the same in every state of it (10_state.md R23). -/
  parameters : Parameters
  /-- The block's own storage, zero bits (10_state.md R13). -/
  block : Storage
  /-- The environment's bound names with the results they name, names strictly rising (30_encoding.md R50). -/
  names : List (Name × Word)
  /-- The name that takes the result of the call being made (30_encoding.md R50); the model's own field. -/
  receiver : Name
  /-- How many lines of the sequence the environment has done. The model's own field, and the environment's place, not the
  block's: the block has no counter and "nothing records how many calls were made" in it (R17). -/
  position : Nat
  deriving DecidableEq, Repr

/-- The block's exceptions and error outputs. There are none: "The list of exception causes is empty" (60_exceptions.md R83,
R84), so no constructor exists and no step ends in a fault. Safe: nothing can be proved from a fault that cannot occur. -/
inductive Fault where
  deriving DecidableEq, Repr

/-- Why a step is refused. None of these is the block's doing: each stands at the boundary to the environment (R84, D16). -/
inductive Refusal where
  /-- Raised by a dispatch arm whose instruction has no meaning yet. No arm raises it. Safe. -/
  | notModelled (mnemonic : String)
  /-- Raised by the fetch of a call or an EXPECT line whose operand is not 32 defined wires (10_state.md R22, U2, U8; log
  entry 7). Safe. -/
  | undefinedOperand (reason : DecodeError)
  /-- Raised by the fetch when no line is left: nothing acts without an operand being presented (10_state.md R15; log
  entry 8). Safe. -/
  | noCall
  /-- Raised by the fetch of a line that uses a name no earlier line has bound (30_encoding.md R50; log entry 4). Safe. -/
  | unboundName (n : Name)
  /-- Raised by the fetch of an EXPECT line whose two sides differ (30_encoding.md R50; log entry 9). Safe. -/
  | expectationFailed (n : Name)
  deriving DecidableEq, Repr

/-- Nothing stored, nothing driven, no name bound (70_reset_and_hazards.md R97, R99; the environment's fields: log entry 5). -/
def State.reset : State where
  parameters := { program := [] }
  block := {}
  names := []
  receiver := 0
  position := 0

end Sys2Proof.Machine
end

