-- ==== Sys2Proof/Machine/Ops.lean ====
section
/-! DEFINITION. The named operations on words and on the state: placing a bit, the names the environment has bound, making a
call and taking its result (00_scope.md section 5.1, 10_state.md R15, 30_encoding.md R50). There is no register file, no
memory and no trap mechanism to read or write (10_state.md R13, 20_memory.md R25, 60_exceptions.md R88), so no operation for
any of them. -/

namespace Sys2Proof.Machine

/-- `bit(i)`, the word with only bit `i` set (00_scope.md section 5.1). -/
def bit (i : Nat) : Word := 1#32 <<< i

/-- `zext_32(x[src]) << dst`: bit `src` of `x`, alone, at position `dst` (00_scope.md section 5.1). -/
def placeBit (x : Word) (src dst : Nat) : Word := (BitVec.ofBool (x.getLsbD src)).setWidth 32 <<< dst

/-- The result a name is bound to, if it is bound. -/
def lookup (n : Name) : List (Name × Word) → Option Word
  | [] => none
  | (m, w) :: rest => if n = m then some w else lookup n rest

/-- Bind a name to a result, in the place that keeps names rising. A name bound before names the new result from now on
(DESIGN CHOICE, log entry 4). -/
def bindName (n : Name) (v : Word) : List (Name × Word) → List (Name × Word)
  | [] => [(n, v)]
  | (m, w) :: rest =>
    if n < m then (n, v) :: (m, w) :: rest
    else if n = m then (n, v) :: rest
    else (m, w) :: bindName n v rest

/-- The canonical form of the bound names: strictly rising, so that equal bindings are equal data. -/
abbrev NamesWf (l : List (Name × Word)) : Prop := (l.map Prod.fst).Pairwise (· < ·)

/-- The environment's lines not yet done, the next one first: what is left of the sequence at its place in it (10_state.md
R23, 70_reset_and_hazards.md R108). -/
def State.waiting (s : State) : List Line := s.parameters.program.drop s.position

/-- What a name of the environment is bound to. -/
def State.value (s : State) (n : Name) : Option Word := lookup n s.names

/-- The environment takes a result: the receiving name names it. Nothing else changes, and nothing in the block (10_state.md
R13, R15, R21; 20_memory.md R29). -/
def deliver (v : Word) (s : State) : State := { s with names := bindName s.receiver v s.names }

/-- The environment is done with a line that makes no call: its place is after it. The sequence stays as it is (10_state.md
R23). -/
def passLine (s : State) : State := { s with position := s.position + 1 }

/-- The environment turns to a call: its place is after the line, whose left-hand name is to take the result. The sequence
stays as it is (10_state.md R23). -/
def beginCall (dst : Name) (s : State) : State := { s with position := s.position + 1, receiver := dst }

end Sys2Proof.Machine
end

