-- ==== Sys2Proof/Machine/Mixer.lean ====
section
/-! DEFINITION. MIXER: the operation MIX and its two nets (40_mix.md R51 to R53). -/

namespace Sys2Proof.Machine

/-- The exact product of the prompt and `MUL_CONST`, below `2^64` (40_mix.md R52). Only its low 32 bits leave this file: the
high half is discarded. -/
def exactProduct (c : Config) (prompt : Word) : Nat := prompt.toNat * c.mulConst.toNat

/-- `PRODUCT` (40_mix.md R52). -/
def product (c : Config) (prompt : Word) : Word := trunc32 (exactProduct c prompt)

/-- `MIXED` (40_mix.md R51, R53). -/
def mixed (c : Config) (prompt : Word) : Word := product c prompt ^^^ c.xorConst

/-- MIX: the environment presents `prompt` to MIXER and takes `mixed` (40_mix.md R51). -/
def execMix (prompt : Word) (s : State) : Host.Outcome State Fault Refusal :=
  .next (deliver (mixed hardware prompt) s)

end Sys2Proof.Machine
end

