-- ==== Sys2Proof/Machine/Swapper.lean ====
section
/-! DEFINITION. SWAPPER: the operation SWAP, by the source's three steps (41_swap.md R59 to R63), its derived constants
(30_encoding.md R45, R46) and the permutation of bit indices (R47). -/

namespace Sys2Proof.Machine

/-- `PAIR_MASK(a,b)` (30_encoding.md R45). -/
def pairMask (p : Nat × Nat) : Word := bit p.1 ||| bit p.2

/-- `SWAP_MASK`, the OR of the pair masks (30_encoding.md R46). -/
def swapMask (c : Config) : Word := c.swapTable.foldl (fun acc p => acc ||| pairMask p) 0#32

/-- `KEEP_MASK`: 0 at every index of the table, 1 everywhere else (41_swap.md R60). A function of the table alone. -/
def keepMask (c : Config) : Word := ~~~(swapMask c)

/-- `C(a,b)`: bit `b` takes the value of bit `a` of the operand, bit `a` that of bit `b` (41_swap.md R61). -/
def contribution (x : Word) (p : Nat × Nat) : Word := placeBit x p.1 p.2 ||| placeBit x p.2 p.1

/-- `SWAPPED`: the contributions of all pairs, accumulated by OR (41_swap.md R62). -/
def swapped (c : Config) (x : Word) : Word := c.swapTable.foldl (fun acc p => acc ||| contribution x p) 0#32

/-- `S(x)`: the kept bits and the swapped bits combined (41_swap.md R59, R63). -/
def swapResult (c : Config) (x : Word) : Word := (x &&& keepMask c) ||| swapped c x

/-- `sigma` over a table: an index of a pair goes to the other index of the pair, any other index to itself
(30_encoding.md R47). -/
def sigmaOf : List (Nat × Nat) → Nat → Nat
  | [], i => i
  | (a, b) :: rest, i => if i = a then b else if i = b then a else sigmaOf rest i

/-- `sigma` (30_encoding.md R47). -/
def sigma (c : Config) (i : Nat) : Nat := sigmaOf c.swapTable i

/-- SWAP: the environment presents `x` to SWAPPER and takes `y = S(x)` (41_swap.md R59). -/
def execSwap (x : Word) (s : State) : Host.Outcome State Fault Refusal :=
  .next (deliver (swapResult hardware x) s)

end Sys2Proof.Machine
end

