-- ==== Sys2Proof/Machine/Compute.lean ====
section
/-! DEFINITION. CORE: MIXER followed by SWAPPER (42_compute.md R71, R78), the named values of a call (10_state.md R14), and
what stands on the ports of the units during a call (10_state.md R16). -/

namespace Sys2Proof.Machine

/-- The named values of one COMPUTE call (10_state.md R14). Nets, not registers: functions of the prompt. -/
structure Nets where
  prompt : Word
  product : Word
  mixed : Word
  keepMask : Word
  swapped : Word
  response : Word
  deriving DecidableEq, Repr

/-- The nets of a COMPUTE call, by the five steps of 42_compute.md R71: MIXER's result is SWAPPER's operand (R78). -/
def nets (c : Config) (prompt : Word) : Nets where
  prompt := prompt
  product := product c prompt
  mixed := mixed c prompt
  keepMask := keepMask c
  swapped := swapped c (mixed c prompt)
  response := swapResult c (mixed c prompt)

/-- `RESPONSE` (42_compute.md R71). -/
def response (c : Config) (prompt : Word) : Word := (nets c prompt).response

/-- COMPUTE: the environment presents `prompt` to CORE and takes `response` (42_compute.md R71). -/
def execCompute (prompt : Word) (s : State) : Host.Outcome State Fault Refusal :=
  .next (deliver (response hardware prompt) s)

/-- The result a call gives, whichever unit makes it (10_state.md R15, 30_encoding.md R40). -/
def result (c : Config) : Instr → Word
  | .mix prompt => mixed c prompt
  | .swap x => swapResult c x
  | .compute prompt => response c prompt

/-- What stands on a port during a call. A call on MIXER or SWAPPER alone drives that unit's two ports; a call on CORE drives
CORE's two and, inside CORE, those of its MIXER and its SWAPPER, wired in series (10_state.md R16, 42_compute.md R78). `none`
is a port of a unit that takes no part in the call. -/
def onPort (c : Config) : Instr → Port → Option Word
  | .mix prompt, .mixerPrompt => some prompt
  | .mix prompt, .mixerMixed => some (mixed c prompt)
  | .mix _, .corePrompt => none
  | .mix _, .coreResponse => none
  | .mix _, .swapperX => none
  | .mix _, .swapperY => none
  | .swap x, .swapperX => some x
  | .swap x, .swapperY => some (swapResult c x)
  | .swap _, .corePrompt => none
  | .swap _, .coreResponse => none
  | .swap _, .mixerPrompt => none
  | .swap _, .mixerMixed => none
  | .compute prompt, .corePrompt => some prompt
  | .compute prompt, .mixerPrompt => some prompt
  | .compute prompt, .mixerMixed => some (nets c prompt).mixed
  | .compute prompt, .swapperX => some (nets c prompt).mixed
  | .compute prompt, .swapperY => some (nets c prompt).response
  | .compute prompt, .coreResponse => some (nets c prompt).response

end Sys2Proof.Machine
end

