-- ==== Sys2Proof/Machine/Dispatch.lean ====
section
/-! DEFINITION. One arm for each operation of spec/opcode_table.json (30_encoding.md R38). -/

namespace Sys2Proof.Machine

def exec (i : Instr) (s : State) : Host.Outcome State Fault Refusal :=
  match i with
  | .mix prompt => Sys2Proof.Machine.execMix prompt s
  | .swap x => Sys2Proof.Machine.execSwap x s
  | .compute prompt => Sys2Proof.Machine.execCompute prompt s

end Sys2Proof.Machine
end

