-- ==== Sys2Proof/Machine/Operands.lean ====
section
/-! DEFINITION. The operand forms of a line: what the environment drives on the operand wires for each (30_encoding.md R50,
10_state.md R22). -/

namespace Sys2Proof.Machine

/-- The wires driven for an operand: a literal and a bound name drive their 32 bits; a name not bound on an earlier line is
refused. -/
def operandWires (s : State) : Operand → Except Refusal (List Wire)
  | .literal v => .ok (wiresOfWord v)
  | .name n =>
    match s.value n with
    | some v => .ok (wiresOfWord v)
    | none => .error (.unboundName n)
  | .wires ws => .ok ws

/-- The value of an operand, for the side of an EXPECT line that is not a name of its own. -/
def operandValue (s : State) (op : Operand) : Except Refusal Word :=
  match operandWires s op with
  | .error r => .error r
  | .ok ws =>
    match wordOfWires ws with
    | .error e => .error (.undefinedOperand e)
    | .ok v => .ok v

end Sys2Proof.Machine
end

