-- ==== Sys2Proof/Machine/Fetch.lean ====
section
/-! DEFINITION. What the environment does before a call: it takes its next line and drives the operand wires of the unit the
line addresses (10_state.md R15, 30_encoding.md R50). -/

namespace Sys2Proof.Machine

/-- What the next line asks for: a call, to be run from a state, or nothing of the block (an EXPECT line that holds). -/
inductive Fetched where
  | call (i : Instr) (s : State)
  | passed (s : State)
  deriving DecidableEq, Repr

/-- A call line: its operand wires, read by the unit it addresses. Which instance of the unit is used plays no part: the
instances share nothing and give the same results (60_exceptions.md R94; log entry 11). -/
def fetchCall (dst : Name) (u : UnitId) (op : Operand) (s : State) : Except Refusal Fetched :=
  match operandWires s op with
  | .error r => .error r
  | .ok ws =>
    match decode u ws with
    | .error e => .error (.undefinedOperand e)
    | .ok i => .ok (.call i (beginCall dst s))

/-- An EXPECT line: it is passed if the name is bound to the value of the operand (log entry 9). -/
def fetchExpect (n : Name) (op : Operand) (s : State) : Except Refusal Fetched :=
  match s.value n with
  | none => .error (.unboundName n)
  | some v =>
    match operandValue s op with
    | .error r => .error r
    | .ok w => if v = w then .ok (.passed (passLine s)) else .error (.expectationFailed n)

/-- The environment's next line. With no line left there is no call (log entry 8). -/
def fetch (s : State) : Except Refusal Fetched :=
  match s.waiting with
  | [] => .error .noCall
  | .call dst sp _ op :: _ => fetchCall dst sp.unit op s
  | .expect n op :: _ => fetchExpect n op s

/-- The line that presents a word of the host's to `tableUnit` (log entry 6). -/
def tableLine (s : State) (nbits w : Nat) : Line :=
  .call s.receiver (match tableUnit with
    | .core => .COMPUTE
    | .mixer => .MIX
    | .swapper => .SWAP) 0 (.wires (tableWires nbits w))

end Sys2Proof.Machine
end

