-- ==== Sys2Proof/Machine/Step.lean ====
section
/-! DEFINITION. One step: one line of the environment, a call being one atomic step (10_state.md R15). -/

namespace Sys2Proof.Machine

/-- One step of the machine. -/
def step (s : State) : Host.Outcome State Fault Refusal :=
  match fetch s with
  | .error r => .refused r
  | .ok (.call i s') => exec i s'
  | .ok (.passed s') => .next s'

/-- The state whose next line presents a word of the host's. The sequence of calls being a parameter (10_state.md R23), this
chooses it anew: the line that presents the word, then the lines waiting until now, none of them done. The result goes to the
name that is the receiver already (log entry 6). -/
def State.withFetchWord (s : State) (nbits w : Nat) : State :=
  { s with parameters := { program := tableLine s nbits w :: s.waiting }, position := 0 }

end Sys2Proof.Machine
end

