-- ==== Sys2Proof/Machine/Flags.lean ====
section
/-! DEFINITION. Flags: the block has none, and no operation writes one (10_state.md R18, R51, R59, R71). -/

namespace Sys2Proof.Machine

/-- A flag or condition code of the block. There is none: "no carry, no overflow, no zero, no sign, no parity, no error flag"
(10_state.md R18). -/
inductive Flag where
  deriving DecidableEq, Repr

/-- The flags an operation writes: none ("Flags written: none" of R51, R59 and R71). -/
def flagsWritten : Instr → List Flag
  | .mix _ => []
  | .swap _ => []
  | .compute _ => []

end Sys2Proof.Machine
end

