-- ==== Sys2Proof/Safety.lean ====
section
/-! DEFINITION. The terms in which statements about runs are made: the invariant of the environment's data, a state whose
program can run to its end, lines that present a literal, and the number of set bits of a word. -/

namespace Sys2Proof.Machine

/-- The invariant of every state a run reaches: the bound names are in canonical form, and the environment's place is in its
sequence of lines or at its end. -/
abbrev State.Inv (s : State) : Prop := NamesWf s.names ∧ s.position ≤ s.parameters.program.length

/-- A state whose waiting lines use only names that are bound when their line comes, and drive only defined wires
(30_encoding.md R50, 10_state.md R22). -/
abbrev State.Ready (s : State) : Prop := s.Inv ∧ programWf (s.names.map Prod.fst) s.waiting = true

/-- The host's run of `k` steps, of this machine. -/
def run (k : Nat) (s : State) : Host.Outcome State Fault Refusal := Sys2Proof.core.run k s

/-- A line that makes a call (an EXPECT line does not). -/
def Line.isCall : Line → Bool
  | .call _ _ _ _ => true
  | .expect _ _ => false

/-- A call of a literal operand: where its result goes, how the operation is spelled, on which instance, and the operand. -/
structure LiteralCall where
  dst : Name
  spelling : Spelling
  inst : Nat
  operand : Word
  deriving DecidableEq, Repr

/-- The line that makes such a call. -/
def LiteralCall.line (c : LiteralCall) : Line := .call c.dst c.spelling c.inst (.literal c.operand)

/-- The operation and operand of such a call. -/
def LiteralCall.instr (c : LiteralCall) : Instr := c.spelling.unit.call c.operand

/-- Such a call on another instance. -/
def LiteralCall.onInstance (k : Nat) (c : LiteralCall) : LiteralCall := { c with inst := k }

/-- A line with its instance numbers changed. -/
def renumberLine (f : Nat → Nat) : Line → Line
  | .call dst sp inst op => .call dst sp (f inst) op
  | .expect n op => .expect n op

/-- A state with the instance numbers of its lines changed. -/
def State.renumber (f : Nat → Nat) (s : State) : State :=
  { s with parameters := { program := s.parameters.program.map (renumberLine f) } }

/-- An outcome with its next state, if it is one, changed. -/
def mapNext (f : State → State) : Host.Outcome State Fault Refusal → Host.Outcome State Fault Refusal
  | .next s => .next (f s)
  | .fault r => .fault r
  | .refused r => .refused r

/-- `popcount(v)`, the number of bits of `v` that are 1 (00_scope.md section 5.1). -/
def popcount (v : Word) : Nat := (List.range 32).countP fun i => v.getLsbD i

end Sys2Proof.Machine
end

