-- ==== Sys2Proof/Certificates/Slice0/Obligations.lean ====
section
/-! DEFINITION. The statements for the provers, one for each entry of OBLIGATIONS.json, in its order. Literals are the
spec's own, so that a statement does not take a value from the model it is about. -/

open Sys2Proof Sys2Proof.Machine

/-! ### Wires, decoding, encoding -/

/-- Decoding and encoding agree, both ways: every call, with every operand, is what its own encoding decodes to, and wires that
decode to a call are that call's encoding, so no two wire patterns of a unit are one call (30_encoding.md R39, R50). -/
def Obligations.DecodeAndEncodeAgree : Prop :=
  (∀ i : Instr, i.wf = true ∧ decode (encode i).1 (encode i).2 = .ok i) ∧
  ∀ (u : UnitId) (ws : List Wire) (i : Instr), decode u ws = .ok i → encode i = (u, ws)

/-- Wire `k` of the operand port carries bit `k` of the operand (30_encoding.md R39, 00_scope.md R12). -/
def Obligations.OperandWireCarriesItsBit : Prop :=
  ∀ (u : UnitId) (ws : List Wire) (i : Instr), decode u ws = .ok i →
    ws.length = 32 ∧ ∀ k, k < 32 → ws[k]? = some (if i.operand.getLsbD k then Wire.one else Wire.zero)

/-- A unit's decoder gives the unit's one operation whatever the 32 bits are (30_encoding.md R37, R38), each on the operand
that the wires carry, and the three units read the same wires as the same operand. -/
def Obligations.UnitDecoderIsConstant : Prop :=
  ∀ ws : List Wire, wiresWf ws = true →
    ∃ v : Word, decode .mixer ws = .ok (.mix v) ∧ decode .swapper ws = .ok (.swap v) ∧ decode .core ws = .ok (.compute v)

/-- Every one of the `2^32` operands is legal for every operation: it decodes, and the call gives its result from every state
(30_encoding.md R48). -/
def Obligations.EveryOperandIsLegal : Prop :=
  ∀ (v : Word) (u : UnitId) (s : State),
    decode u (wiresOfWord v) = .ok (u.call v) ∧ ∃ t, exec (u.call v) s = .next t ∧ t.value s.receiver = some (result hardware (u.call v))

/-- Wires that are not 32 defined bits are no operand, and what presents them is no call: by no unit do they decode, and a
line that drives them, on any unit, any instance and with any result name, or on the right of an EXPECT, is refused. The spec
says it of a call's operand with an undriven or unknown bit (10_state.md R22, D7). Two clauses are the model's choice: the
refusal of wires of another number than 32, whose wires may all be defined (log entry 7, resting on R16's 32-wire ports), and
the refusal of an EXPECT line whose operand is wires, a form that 30_encoding.md R50 does not have (log entries 7 and 9). -/
def Obligations.UndefinedOperandIsRefused : Prop :=
  ∀ (s : State) (ws : List Wire) (rest : List Line), wiresWf ws = false →
    (∀ u : UnitId, ∃ e, decode u ws = .error e) ∧
    (∀ (dst : Name) (sp : Spelling) (k : Nat), s.waiting = .call dst sp k (.wires ws) :: rest →
      ∃ e, step s = .refused (.undefinedOperand e)) ∧
    ∀ (n : Name) (v : Word), s.value n = some v → s.waiting = .expect n (.wires ws) :: rest →
      ∃ e, step s = .refused (.undefinedOperand e)

/-- What such a refusal names: the number of wires if it is not 32, else the lowest wire that carries no bit and what stands
on it. The model's choice (log entry 7), resting on 10_state.md R16 and R22. -/
def Obligations.UndefinedOperandIsNamed : Prop :=
  ∀ (s : State) (ws : List Wire) (rest : List Line) (e : DecodeError) (dst : Name) (sp : Spelling) (k : Nat),
    ((ws.length ≠ 32 ∧ e = .portWidth ws.length) ∨
      (ws.length = 32 ∧ ∃ low high : List Wire, low.all Wire.defined = true ∧
        (ws = low ++ .undriven :: high ∧ e = .undriven low.length ∨ ws = low ++ .unknown :: high ∧ e = .unknown low.length))) →
    s.waiting = .call dst sp k (.wires ws) :: rest → step s = .refused (.undefinedOperand e)

/-- Wires written out from the spec decode as the spec says: line 1 of program P2 for each unit, one single-bit operand, and
the two extreme operands (95_test_vectors.md section 3, 30_encoding.md R39). -/
def Obligations.SpecWiresDecode : Prop :=
  (let w (b : Nat) : Wire := if b = 1 then .one else .zero
   let p2 := [0,0,0,1, 0,0,1,0, 0,0,1,1, 0,1,0,0, 0,1,0,1, 0,1,1,0, 0,1,1,1, 1,0,0,0]
   decode .mixer (p2.reverse.map w) = .ok (.mix 0x12345678#32) ∧
   decode .core (p2.reverse.map w) = .ok (.compute 0x12345678#32) ∧
   decode .swapper (p2.reverse.map w) = .ok (.swap 0x12345678#32) ∧
   decode .swapper ((1 :: List.replicate 31 0).reverse.map w) = .ok (.swap 0x80000000#32) ∧
   decode .core ((List.replicate 32 0).map w) = .ok (.compute 0#32) ∧
   decode .mixer ((List.replicate 32 1).map w) = .ok (.mix 0xFFFFFFFF#32))

/-- The ports of the units, their direction and width, and what they carry in a call: the operand on the unit's operand port,
the result on its result port (10_state.md R16, 30_encoding.md R38). -/
def Obligations.PortsCarryOperandAndResult : Prop :=
  (∀ u : UnitId, u.operandPort.unit = u ∧ u.operandPort.direction = .input ∧ u.operandPort.width = 32 ∧
    u.resultPort.unit = u ∧ u.resultPort.direction = .output ∧ u.resultPort.width = 32) ∧
  (∀ p : Port, p = p.unit.operandPort ∨ p = p.unit.resultPort) ∧
  (∀ (c : Config) (i : Instr), onPort c i i.unit.operandPort = some i.operand ∧
    onPort c i i.unit.resultPort = some (result c i))

/-! ### Constants -/

/-- `MUL_CONST` bit by bit, and odd (30_encoding.md R43). -/
def Obligations.MulConstBits : Prop :=
  hardware.mulConst = 0x4D9B29A1#32 ∧ hardware.mulConst = 0b01001101100110110010100110100001#32 ∧
  (∀ i, i < 32 → (hardware.mulConst.getLsbD i = true ↔ i ∈ [0, 5, 7, 8, 11, 13, 16, 17, 19, 20, 23, 24, 26, 27, 30])) ∧
  popcount hardware.mulConst = 15 ∧ hardware.mulConst.toNat % 2 = 1

/-- `XOR_CONST` bit by bit (30_encoding.md R44). -/
def Obligations.XorConstBits : Prop :=
  hardware.xorConst = 0x6982510D#32 ∧ hardware.xorConst = 0b01101001100000100101000100001101#32 ∧
  (∀ i, i < 32 → (hardware.xorConst.getLsbD i = true ↔ i ∈ [0, 2, 3, 8, 12, 14, 17, 23, 24, 27, 29, 30])) ∧
  popcount hardware.xorConst = 12

/-- The SwapTable invariant: the 16 indices of the table are distinct and are the listed ones; the hardware's configuration is
built, and a configuration with a repeated index is not, whatever its other fields (00_scope.md R10). -/
def Obligations.SwapTableInvariant : Prop :=
  hardware.indices.Nodup ∧ hardware.indices.length = 16 ∧
  (∀ i, i ∈ hardware.indices ↔ i ∈ [1, 3, 4, 5, 6, 10, 11, 12, 13, 14, 15, 18, 23, 25, 29, 31]) ∧
  hardware.build = .ok hardware ∧
  ∀ c : Config, ¬ c.indices.Nodup → ∃ e, c.build = .error e

/-- A configuration is built exactly when it passes the four checks, and what is built is the record itself (00_scope.md R10,
70_reset_and_hazards.md R101; that the width, the count and the range are checked with the invariant: log entry 13). -/
def Obligations.BuildAcceptsExactlyTheChecks : Prop :=
  ∀ c : Config,
    (c.WF ↔ c.width = 32 ∧ c.swapTable.length = c.npairs ∧ (∀ p ∈ c.swapTable, p.1 < 32 ∧ p.2 < 32) ∧ c.indices.Nodup) ∧
    ∀ d : Config, c.build = .ok d → d = c

/-- The pair masks of the table, in the source's order, and their disjointness (30_encoding.md R45). -/
def Obligations.PairMasksAreDisjoint : Prop :=
  (∀ a b : Nat, a < 32 → b < 32 → ∀ i, i < 32 → ((pairMask (a, b)).getLsbD i = true ↔ i = a ∨ i = b)) ∧
  hardware.swapTable.map (fun p => (bit p.1, bit p.2, pairMask p)) =
    [(0x80000000#32, 0x00000010#32, 0x80000010#32), (0x00000400#32, 0x00000800#32, 0x00000C00#32),
     (0x00008000#32, 0x00002000#32, 0x0000A000#32), (0x00000008#32, 0x00000002#32, 0x0000000A#32),
     (0x00001000#32, 0x00800000#32, 0x00801000#32), (0x02000000#32, 0x00000020#32, 0x02000020#32),
     (0x00040000#32, 0x20000000#32, 0x20040000#32), (0x00004000#32, 0x00000040#32, 0x00004040#32)] ∧
  (hardware.swapTable.map pairMask).Pairwise (fun m n => m &&& n = 0#32)

/-- The two masks, as values and bit by bit (30_encoding.md R46). -/
def Obligations.SwapAndKeepMasks : Prop :=
  swapMask hardware = (hardware.swapTable.map pairMask).foldr (· ||| ·) 0#32 ∧
  swapMask hardware = 0xA284FC7A#32 ∧ swapMask hardware = 0b10100010100001001111110001111010#32 ∧
  keepMask hardware = ~~~(swapMask hardware) ∧
  keepMask hardware = 0x5D7B0385#32 ∧ keepMask hardware = 0b01011101011110110000001110000101#32 ∧
  (∀ i, i < 32 → ((swapMask hardware).getLsbD i = true ↔ i ∈ [1, 3, 4, 5, 6, 10, 11, 12, 13, 14, 15, 18, 23, 25, 29, 31])) ∧
  (∀ i, i < 32 → ((keepMask hardware).getLsbD i = true ↔ i ∈ [0, 2, 7, 8, 9, 16, 17, 19, 20, 21, 22, 24, 26, 27, 28, 30])) ∧
  popcount (swapMask hardware) = 16 ∧ popcount (keepMask hardware) = 16 ∧
  keepMask hardware + swapMask hardware = 0xFFFFFFFF#32

/-- The keep mask of ANY well-formed configuration: 0 at every index of the table, 1 everywhere else, a function of the table
alone; for this hardware the value of the spec (41_swap.md R60). -/
def Obligations.KeepMaskOfTable : Prop :=
  (∀ c : Config, c.WF → ∀ i, i < 32 → ((keepMask c).getLsbD i = false ↔ i ∈ c.indices)) ∧
  (∀ c d : Config, c.swapTable = d.swapTable → keepMask c = keepMask d) ∧ keepMask hardware = 0x5D7B0385#32

/-- `sigma` of any well-formed configuration exchanges the indices of each pair, fixes every other index, stays in 0..31 and
is its own inverse; for this hardware it is the table of the spec, and SWAPPER's output wire `sigma(i)` is its input wire `i`
(30_encoding.md R47). -/
def Obligations.SigmaOfTable : Prop :=
  (∀ c : Config, c.WF →
    (∀ a b : Nat, (a, b) ∈ c.swapTable → sigma c a = b ∧ sigma c b = a) ∧
    (∀ i, i ∉ c.indices → sigma c i = i) ∧ (∀ i, i < 32 → sigma c i < 32) ∧ (∀ i, sigma c (sigma c i) = i)) ∧
  (List.range 32).map (sigma hardware) =
    [0, 3, 2, 1, 31, 25, 14, 7, 8, 9, 11, 10, 23, 15, 6, 13, 16, 17, 29, 19, 20, 21, 22, 12, 24, 5, 26, 27, 28, 18, 30, 4] ∧
  ∀ (x : Word) (i : Nat), i < 32 → (swapResult hardware x).getLsbD (sigma hardware i) = x.getLsbD i

/-! ### MIX -/

/-- MIX completes from every state with the result the spec gives, and writes nothing else (40_mix.md R51): no flag, no block
storage; its worked example. -/
def Obligations.MixCallGivesMixed : Prop :=
  (∀ (prompt : Word) (s : State),
    exec (.mix prompt) s = .next { s with
      names := bindName s.receiver (BitVec.ofNat 32 (prompt.toNat * 0x4D9B29A1) ^^^ 0x6982510D#32) s.names }) ∧
  (∀ prompt : Word, decode .mixer (wiresOfWord prompt) = .ok (.mix prompt) ∧
    onPort hardware (.mix prompt) .mixerPrompt = some prompt ∧
    onPort hardware (.mix prompt) .mixerMixed = some (BitVec.ofNat 32 (prompt.toNat * 0x4D9B29A1) ^^^ 0x6982510D#32) ∧
    flagsWritten (.mix prompt) = []) ∧
  product hardware 0x00000001#32 = 0x4D9B29A1#32 ∧ mixed hardware 0x00000001#32 = 0x241978AC#32

/-- The product is the exact product, below `2^64`, modulo `2^32`; its high half sets no flag and reaches neither the product nor the result:
it is the same whichever numbers congruent modulo `2^32` were multiplied (40_mix.md R52). -/
def Obligations.ProductIsModulo : Prop :=
  ∀ prompt : Word,
    exactProduct hardware prompt = prompt.toNat * 0x4D9B29A1 ∧ flagsWritten (.mix prompt) = [] ∧
    exactProduct hardware prompt ≤ (2 ^ 32 - 1) ^ 2 ∧ exactProduct hardware prompt < 2 ^ 64 ∧
    (product hardware prompt).toNat = exactProduct hardware prompt % 2 ^ 32 ∧
    ∀ h : Nat, product hardware prompt = trunc32 (exactProduct hardware prompt % 2 ^ 32 + h * 2 ^ 32)

/-- `MIXED` bit by bit: it differs from `PRODUCT` in exactly the twelve positions of `XOR_CONST` (40_mix.md R53). -/
def Obligations.MixedIsProductXor : Prop :=
  ∀ (prompt : Word) (i : Nat), i < 32 →
    ((mixed hardware prompt).getLsbD i).toNat =
      (((product hardware prompt).getLsbD i).toNat + ((0x6982510D#32).getLsbD i).toNat) % 2 ∧
    ((mixed hardware prompt).getLsbD i ≠ (product hardware prompt).getLsbD i ↔
      i ∈ [0, 2, 3, 8, 12, 14, 17, 23, 24, 27, 29, 30])

/-- In unbounded arithmetic, masking after the multiply, after the XOR or after both gives the one `MIXED` (40_mix.md R54). -/
def Obligations.MaskingOrderDoesNotMatter : Prop :=
  ∀ prompt : Word,
    (mixed hardware prompt).toNat = (prompt.toNat * 0x4D9B29A1 % 2 ^ 32) ^^^ 0x6982510D ∧
    (mixed hardware prompt).toNat = ((prompt.toNat * 0x4D9B29A1 % 2 ^ 32) ^^^ 0x6982510D) % 2 ^ 32 ∧
    (mixed hardware prompt).toNat = ((prompt.toNat * 0x4D9B29A1) ^^^ 0x6982510D) % 2 ^ 32

/-- The product does not depend on how the two operands are read: any integers congruent to them modulo `2^32` (the signed
readings among them) multiply to the same low 32 bits, and a wrapping multiply gives them (40_mix.md R55). -/
def Obligations.ProductIgnoresSignedness : Prop :=
  ∀ prompt : Word,
    (∀ s t : Int, product hardware prompt =
      BitVec.ofInt 32 (((prompt.toNat : Int) + s * 2 ^ 32) * ((0x4D9B29A1 : Int) + t * 2 ^ 32))) ∧
    product hardware prompt = BitVec.ofInt 32 (prompt.toInt * (0x4D9B29A1#32).toInt) ∧
    product hardware prompt = prompt * 0x4D9B29A1#32

/-- MIX is a bijection: for the hardware with the inverse the spec gives; the one prompt whose `MIXED` is zero (40_mix.md
R56). -/
def Obligations.MixIsBijective : Prop :=
  mulInv = 0x52CEFA61#32 ∧ hardware.mulConst * mulInv = 1#32 ∧ trunc32 (0x4D9B29A1 * 0x52CEFA61) = 0x00000001#32 ∧
  (∀ prompt : Word, prompt = trunc32 ((mixed hardware prompt ^^^ 0x6982510D#32).toNat * 0x52CEFA61)) ∧
  (∀ p q : Word, mixed hardware p = mixed hardware q → p = q) ∧
  (∀ m : Word, ∃ p : Word, mixed hardware p = m ∧ ∀ q : Word, mixed hardware q = m → q = p) ∧
  (∀ p : Word, mixed hardware p = 0x00000000#32 ↔ p = 0x9FFD67ED#32) ∧
  trunc32 (0x6982510D * 0x52CEFA61) = 0x9FFD67ED#32

/-- For any configuration whose multiplier is odd MIX is a bijection, whatever the literals (93_implementation_defined.md
U4). -/
def Obligations.OddMultiplierMixIsBijective : Prop :=
  ∀ c : Config, c.mulConst.toNat % 2 = 1 → Function.Bijective (mixed c)

/-- The corner cases of MIX (40_mix.md R57). -/
def Obligations.MixCornerCases : Prop :=
  (∀ r ∈ [(0x00000000, 0x0, 0x00000000, 0x6982510D), (0x00000001, 0x4D9B29A1, 0x4D9B29A1, 0x241978AC),
      (0x00000002, 0x9B365342, 0x9B365342, 0xF2B4024F), (0x00000004, 0x1366CA684, 0x366CA684, 0x5FEEF789),
      (0x00010000, 0x4D9B29A10000, 0x29A10000, 0x4023510D), (0x80000000, 0x26CD94D080000000, 0x80000000, 0xE982510D),
      (0xFFFFFFFF, 0x4D9B29A0B264D65F, 0xB264D65F, 0xDBE68752), (0x52CEFA61, 0x191A721800000001, 0x00000001, 0x6982510C),
      (0x9FFD67ED, 0x308030B46982510D, 0x6982510D, 0x00000000)],
    exactProduct hardware (BitVec.ofNat 32 r.1) = r.2.1 ∧ product hardware (BitVec.ofNat 32 r.1) = BitVec.ofNat 32 r.2.2.1 ∧
    mixed hardware (BitVec.ofNat 32 r.1) = BitVec.ofNat 32 r.2.2.2)

/-- The product is additive and MIX is affine over neither addition nor XOR; bit 0 of `MIXED` is the complement of bit 0 of
the prompt, and bit `i` depends on bits `0..i` only; the product is the sum of the shifted prompts (40_mix.md R58). -/
def Obligations.MixLinearityFacts : Prop :=
  (∀ a b : Word, product hardware (a + b) = product hardware a + product hardware b) ∧
  (mixed hardware 0x1#32 = 0x241978AC#32 ∧ mixed hardware 0x3#32 = 0x81532DEE#32 ∧ mixed hardware 0x0#32 = 0x6982510D#32 ∧
    mixed hardware 0x1#32 ^^^ mixed hardware 0x3#32 ^^^ mixed hardware 0x0#32 = 0xCCC8044F#32 ∧
    mixed hardware (0x1#32 ^^^ 0x3#32) = 0xF2B4024F#32) ∧
  (∃ a b : Word, mixed hardware (a + b) + mixed hardware 0#32 ≠ mixed hardware a + mixed hardware b) ∧
  (∀ p : Word, (mixed hardware p).getLsbD 0 = !(p.getLsbD 0)) ∧
  (∀ (p q : Word) (i : Nat), (∀ j, j ≤ i → p.getLsbD j = q.getLsbD j) →
    (mixed hardware p).getLsbD i = (mixed hardware q).getLsbD i) ∧
  (∀ p : Word, product hardware p =
    ([0, 5, 7, 8, 11, 13, 16, 17, 19, 20, 23, 24, 26, 27, 30].map fun j => p <<< (j : Nat)).sum)

/-! ### SWAP -/

/-- SWAP completes from every state; its result has at position `sigma(i)` the operand's bit `i`, `sigma` being the spec's
table, and it writes nothing else (41_swap.md R59); its worked example. -/
def Obligations.SwapCallExchangesPairs : Prop :=
  (∀ (x : Word) (s : State), ∃ y : Word,
    exec (.swap x) s = .next { s with names := bindName s.receiver y s.names } ∧
    decode .swapper (wiresOfWord x) = .ok (.swap x) ∧
    onPort hardware (.swap x) .swapperX = some x ∧ onPort hardware (.swap x) .swapperY = some y ∧
    flagsWritten (.swap x) = [] ∧
    y = (x &&& 0x5D7B0385#32) |||
      ([(31, 4), (10, 11), (15, 13), (3, 1), (12, 23), (25, 5), (18, 29), (14, 6)].foldl (fun (acc : Word) (p : Nat × Nat) =>
        acc ||| ((BitVec.ofBool (x.getLsbD p.1)).setWidth 32 <<< p.2) ||| ((BitVec.ofBool (x.getLsbD p.2)).setWidth 32 <<< p.1))
        0x00000000#32) ∧
    ∀ i (h : i < 32), y.getLsbD
      ([0, 3, 2, 1, 31, 25, 14, 7, 8, 9, 11, 10, 23, 15, 6, 13, 16, 17, 29, 19, 20, 21, 22, 12, 24, 5, 26, 27, 28, 18, 30, 4][i])
      = x.getLsbD i) ∧
  swapResult hardware 0x80000000#32 = 0x00000010#32

/-- The contribution of a pair of two different indices: bit `b` is the operand's bit `a`, bit `a` its bit `b`, every other
bit 0; the four cases (41_swap.md R61). -/
def Obligations.ContributionSwapsTwoBits : Prop :=
  ∀ (x : Word) (a b : Nat), a < 32 → b < 32 → a ≠ b →
    (contribution x (a, b)).getLsbD b = x.getLsbD a ∧ (contribution x (a, b)).getLsbD a = x.getLsbD b ∧
    (∀ i, i ≠ a → i ≠ b → (contribution x (a, b)).getLsbD i = false) ∧
    (x.getLsbD a = false → x.getLsbD b = false → contribution x (a, b) = 0x00000000#32) ∧
    (x.getLsbD a = true → x.getLsbD b = false → contribution x (a, b) = 1#32 <<< b) ∧
    (x.getLsbD a = false → x.getLsbD b = true → contribution x (a, b) = 1#32 <<< a) ∧
    (x.getLsbD a = true → x.getLsbD b = true → contribution x (a, b) = 1#32 <<< a ||| 1#32 <<< b)

/-- The accumulation over the eight pairs: the OR of their contributions, which have no position in common, so that sum and
XOR give the same, and none of the kept positions (41_swap.md R62). -/
def Obligations.AccumulationIsDisjoint : Prop :=
  ∀ x : Word,
    let cs := [(31, 4), (10, 11), (15, 13), (3, 1), (12, 23), (25, 5), (18, 29), (14, 6)].map (contribution x)
    swapped hardware x = cs.foldl (· ||| ·) 0x00000000#32 ∧ swapped hardware x = cs.foldl (· + ·) 0x00000000#32 ∧
    swapped hardware x = cs.foldl (· ^^^ ·) 0x00000000#32 ∧ cs.Pairwise (fun u v => u &&& v = 0#32) ∧
    swapped hardware x &&& 0x5D7B0385#32 = 0#32

/-- The combination: kept bits and swapped bits, with no position in common, so that sum and XOR give the same (41_swap.md
R63). -/
def Obligations.CombineIsDisjoint : Prop :=
  ∀ x : Word,
    swapResult hardware x = (x &&& 0x5D7B0385#32) ||| swapped hardware x ∧
    (x &&& 0x5D7B0385#32) &&& swapped hardware x = 0#32 ∧
    swapResult hardware x = (x &&& 0x5D7B0385#32) + swapped hardware x ∧
    swapResult hardware x = (x &&& 0x5D7B0385#32) ^^^ swapped hardware x

/-- For any well-formed configuration the step form of SWAP is the permutation form, read forwards, backwards, as an integer
and as the XOR form without a mask (41_swap.md R64). -/
def Obligations.StepFormIsPermutationForm : Prop :=
  ∀ c : Config, c.WF → ∀ x : Word,
    (∀ i, i < 32 → (swapResult c x).getLsbD (sigma c i) = x.getLsbD i) ∧
    (∀ i, i < 32 → (swapResult c x).getLsbD i = x.getLsbD (sigma c i)) ∧
    (swapResult c x).toNat = ((List.range 32).map fun i => (x.getLsbD i).toNat * 2 ^ sigma c i).sum ∧
    swapResult c x = x ^^^ (c.swapTable.map fun p =>
      ((BitVec.ofBool (x.getLsbD p.1 ^^ x.getLsbD p.2)).setWidth 32 <<< p.1) |||
      ((BitVec.ofBool (x.getLsbD p.1 ^^ x.getLsbD p.2)).setWidth 32 <<< p.2)).foldl (· ||| ·) 0#32

/-- For any well-formed configuration SWAP is its own inverse, hence a bijection (41_swap.md R65). -/
def Obligations.SwapIsInvolution : Prop :=
  ∀ c : Config, c.WF → (∀ x : Word, swapResult c (swapResult c x) = x) ∧ Function.Bijective (swapResult c)

/-- Neither the order of the pairs nor that of the two indices of a pair is observable, for any configuration, well formed or
not (41_swap.md R66). -/
def Obligations.PairOrderIsNotObservable : Prop :=
  ∀ (c : Config) (x : Word),
    (∀ table : List (Nat × Nat), table.Perm c.swapTable → swapResult { c with swapTable := table } x = swapResult c x) ∧
    (∀ table : List (Nat × Nat), List.Forall₂ (fun p q => p = q ∨ p = q.swap) table c.swapTable →
      swapResult { c with swapTable := table } x = swapResult c x) ∧
    ∀ a b : Nat, contribution x (a, b) = contribution x (b, a)

/-- The sixteen positions in no pair pass through unchanged (41_swap.md R67). -/
def Obligations.UntouchedBitsPass : Prop :=
  ∀ x : Word, swapResult hardware x &&& 0x5D7B0385#32 = x &&& 0x5D7B0385#32 ∧
    ∀ i ∈ [0, 2, 7, 8, 9, 16, 17, 19, 20, 21, 22, 24, 26, 27, 28, 30], (swapResult hardware x).getLsbD i = x.getLsbD i

/-- What SWAP preserves, for any well-formed configuration, and which operands it fixes: those whose two bits are equal in
each pair, `2^24` of them (41_swap.md R68). -/
def Obligations.SwapPreservesPopcount : Prop :=
  (∀ c : Config, c.WF → ∀ x : Word, popcount (swapResult c x) = popcount x ∧ (swapResult c x = 0#32 ↔ x = 0#32)) ∧
  swapResult hardware 0xFFFFFFFF#32 = 0xFFFFFFFF#32 ∧
  (∀ x : Word, swapResult hardware x = x ↔
    ∀ p ∈ [(31, 4), (10, 11), (15, 13), (3, 1), (12, 23), (25, 5), (18, 29), (14, 6)], x.getLsbD p.1 = x.getLsbD p.2) ∧
  Nat.card { x : Word // swapResult hardware x = x } = 2 ^ 24 ∧
  (∀ x : Word, x &&& 0xA284FC7A#32 = 0#32 → swapResult hardware x = x) ∧
  ∀ x ∈ [0x00000000#32, 0xFFFFFFFF#32, 0x5D7B0385#32, 0xA284FC7A#32, 0x80000010#32, 0x00000C00#32, 0x0000A000#32,
    0x0000000A#32, 0x00801000#32, 0x02000020#32, 0x20040000#32, 0x00004040#32], swapResult hardware x = x

/-- SWAP of any well-formed configuration commutes with every bitwise operation; that of this hardware with neither addition,
multiplication nor shifts (41_swap.md R69). -/
def Obligations.SwapCommutesWithBitwise : Prop :=
  (∀ c : Config, c.WF → ∀ u v : Word,
    swapResult c (u ^^^ v) = swapResult c u ^^^ swapResult c v ∧ swapResult c (u &&& v) = swapResult c u &&& swapResult c v ∧
    swapResult c (u ||| v) = swapResult c u ||| swapResult c v ∧ swapResult c (~~~u) = ~~~(swapResult c u)) ∧
  (∃ u v : Word, swapResult hardware (u + v) ≠ swapResult hardware u + swapResult hardware v) ∧
  (∃ u v : Word, swapResult hardware (u * v) ≠ swapResult hardware u * swapResult hardware v) ∧
  (∃ (u : Word) (n : Nat), n < 32 ∧ swapResult hardware (u <<< n) ≠ swapResult hardware u <<< n) ∧
  ∃ (u : Word) (n : Nat), n < 32 ∧ swapResult hardware (u >>> n) ≠ swapResult hardware u >>> n

/-- The corner cases of SWAP (41_swap.md R70). -/
def Obligations.SwapCornerCases : Prop :=
  (∀ r ∈ [(0x00000000#32, 0x00000000#32, 0x00000000#32, 0x00000000#32), (0xFFFFFFFF#32, 0x5D7B0385#32, 0xA284FC7A#32, 0xFFFFFFFF#32),
      (0x80000000#32, 0x00000000#32, 0x00000010#32, 0x00000010#32), (0x00000010#32, 0x00000000#32, 0x80000000#32, 0x80000000#32),
      (0x80000010#32, 0x00000000#32, 0x80000010#32, 0x80000010#32), (0x00000002#32, 0x00000000#32, 0x00000008#32, 0x00000008#32),
      (0x00000001#32, 0x00000001#32, 0x00000000#32, 0x00000001#32), (0x5D7B0385#32, 0x5D7B0385#32, 0x00000000#32, 0x5D7B0385#32),
      (0xA284FC7A#32, 0x00000000#32, 0xA284FC7A#32, 0xA284FC7A#32), (0xAAAAAAAA#32, 0x082A0280#32, 0x0204B43A#32, 0x0A2EB6BA#32),
      (0x55555555#32, 0x55510105#32, 0xA0804840#32, 0xF5D14945#32), (0x12345678#32, 0x10300200#32, 0xA2804862#32, 0xB2B04A62#32),
      (0x6982510D#32, 0x49020105#32, 0x00841042#32, 0x49861147#32)],
    r.1 &&& keepMask hardware = r.2.1 ∧ swapped hardware r.1 = r.2.2.1 ∧ swapResult hardware r.1 = r.2.2.2) ∧
  ∀ i, i < 32 → swapResult hardware (1#32 <<< i) = 1#32 <<< sigma hardware i

/-! ### COMPUTE -/

/-- COMPUTE completes from every state with the response of the source's five steps, and writes nothing else (42_compute.md
R71); its worked example with the intermediate values. -/
def Obligations.ComputeCallGivesResponse : Prop :=
  (∀ (prompt : Word) (s : State), ∃ m y : Word,
    exec (.compute prompt) s = .next { s with names := bindName s.receiver y s.names } ∧
    decode .core (wiresOfWord prompt) = .ok (.compute prompt) ∧
    onPort hardware (.compute prompt) .corePrompt = some prompt ∧
    onPort hardware (.compute prompt) .coreResponse = some y ∧
    flagsWritten (.compute prompt) = [] ∧
    m = BitVec.ofNat 32 (prompt.toNat * 0x4D9B29A1) ^^^ 0x6982510D#32 ∧
    y = (m &&& 0x5D7B0385#32) |||
      ([(31, 4), (10, 11), (15, 13), (3, 1), (12, 23), (25, 5), (18, 29), (14, 6)].foldl (fun (acc : Word) (p : Nat × Nat) =>
        acc ||| ((BitVec.ofBool (m.getLsbD p.1)).setWidth 32 <<< p.2) ||| ((BitVec.ofBool (m.getLsbD p.2)).setWidth 32 <<< p.1))
        0x00000000#32)) ∧
  (nets hardware 0x00000000#32).mixed = 0x6982510D#32 ∧ 0x6982510D#32 &&& (nets hardware 0x00000000#32).keepMask = 0x49020105#32 ∧
  (nets hardware 0x00000000#32).swapped = 0x00841042#32 ∧ (nets hardware 0x00000000#32).response = 0x49861147#32

/-- The four scenarios of the source with the outputs the rules give (42_compute.md R75), and the edge cases complete from
every state. -/
def Obligations.ComputeEdgeCases : Prop :=
  (∀ r ∈ [(0x00000000#32, 0x6982510D#32, 0x49861147#32), (0x00000001#32, 0x241978AC#32, 0x069D84C6#32),
      (0xFFFFFFFF#32, 0xDBE68752#32, 0xF9627B38#32), (0x12345678#32, 0x2EE9C875#32, 0x8E6D7465#32)],
    mixed hardware r.1 = r.2.1 ∧
    ∀ s : State, exec (.compute r.1) s = .next { s with names := bindName s.receiver r.2.2 s.names }) ∧
  ∀ (prompt : Word) (s : State), ∃ t, exec (.compute prompt) s = .next t

/-- `compute(0)` is the permuted `XOR_CONST` and not zero (42_compute.md R76). -/
def Obligations.ComputeOfZeroIsNotZero : Prop :=
  mixed hardware 0#32 = 0x6982510D#32 ∧ response hardware 0#32 = swapResult hardware 0x6982510D#32 ∧
  response hardware 0#32 = 0x49861147#32 ∧ response hardware 0#32 ≠ 0#32 ∧
  ∀ c : Config, c.WF → c.xorConst ≠ 0#32 → response c 0#32 ≠ 0#32

/-- COMPUTE is a bijection with the inverse the spec gives, and the prompts of the two extreme responses (42_compute.md
R77). -/
def Obligations.ComputeIsBijective : Prop :=
  Function.Bijective (response hardware) ∧
  (∀ p : Word, p = trunc32 ((swapResult hardware (response hardware p) ^^^ 0x6982510D#32).toNat * 0x52CEFA61)) ∧
  (∀ y : Word, ∃ p : Word, response hardware p = y ∧ ∀ q : Word, response hardware q = y → q = p) ∧
  (∀ p : Word, response hardware p = 0x00000000#32 ↔ p = 0x9FFD67ED#32) ∧
  (∀ p : Word, response hardware p = 0xFFFFFFFF#32 ↔ p = 0x0D339DB2#32)

/-- CORE is MIXER followed by SWAPPER: the ports are wired in series, and a caller that makes a MIX call and a SWAP call of
its result ends with what one COMPUTE call gives (42_compute.md R78). The names may be bound already, and `m` may be `y` or
`r`: that a name bound again names the new result is the model's choice (log entry 4). -/
def Obligations.TwoStageCallsEqualCompute : Prop :=
  (∀ p : Word,
    onPort hardware (.compute p) .mixerPrompt = onPort hardware (.compute p) .corePrompt ∧
    onPort hardware (.compute p) .swapperX = onPort hardware (.compute p) .mixerMixed ∧
    onPort hardware (.compute p) .coreResponse = onPort hardware (.compute p) .swapperY ∧
    onPort hardware (.compute p) .mixerMixed = onPort hardware (.mix p) .mixerMixed ∧
    onPort hardware (.compute p) .coreResponse = onPort hardware (.swap (mixed hardware p)) .swapperY) ∧
  ∀ (s : State) (p : Word) (m y r : Name) (j k l : Nat) (rest : List Line), y ≠ r →
    s.waiting = .call m .MIX j (.literal p) :: .call y .SWAP k (.name m) :: .call r .COMPUTE l (.literal p) :: rest →
    ∃ t, run 3 s = .next t ∧ t.waiting = rest ∧ t.value y = t.value r ∧
      t.value r = some (swapResult hardware (mixed hardware p)) ∧ (m ≠ y → m ≠ r → t.value m = some (mixed hardware p))

/-- A caller that makes a COMPUTE call and a SWAP call of the response ends with the `MIXED` of the prompt: a SWAP call undoes
the SWAP stage (95_test_vectors.md T10, resting on 42_compute.md R78 and 41_swap.md R65). The two names may be one: that a
name bound again names the new result is the model's choice (log entry 4). -/
def Obligations.SwapCallUndoesTheSwapStage : Prop :=
  ∀ (s : State) (p : Word) (r y : Name) (j k : Nat) (rest : List Line),
    s.waiting = .call r .COMPUTE j (.literal p) :: .call y .SWAP k (.name r) :: rest →
    ∃ t, run 2 s = .next t ∧ t.waiting = rest ∧ t.value y = some (mixed hardware p)

/-! ### Calls, lines, steps -/

/-- What a call leaves unchanged, for each of the three operations: the sequence of calls and the environment's place in it,
the block, the receiver, and every name but the receiving one, which names the result. There are no flags, no memory, no special and no exception registers to
change (10_state.md R13, R18, R21, 20_memory.md R29). -/
def Obligations.CallChangesOnlyTheReceivingName : Prop :=
  ∀ (i : Instr) (s t : State), exec i s = .next t →
    t.parameters = s.parameters ∧ t.position = s.position ∧ t.block = s.block ∧ t.receiver = s.receiver ∧
    flagsWritten i = [] ∧
    t.value s.receiver = some (result hardware i) ∧ ∀ n, n ≠ s.receiver → t.value n = s.value n

/-- The block raises no exception: there is no cause, every call gives a next state from every state, and no step ends in a
fault (60_exceptions.md R83). -/
def Obligations.NoExceptionIsRaised : Prop :=
  IsEmpty Fault ∧ (∀ (i : Instr) (s : State), ∃ t, exec i s = .next t) ∧ ∀ s r, step s ≠ .fault r

/-- A call is idempotent: making it again, with its result going to the same name, changes nothing (20_memory.md R29).
That a name bound again names the new result is the model's choice (log entry 4). -/
def Obligations.CallIsIdempotent : Prop :=
  ∀ (i : Instr) (s t : State), exec i s = .next t → exec i t = .next t

/-- A step runs the decoded call: when the next line is a call, its operand's wires decode to `i`, then the step is `exec i`
at the state in which that line is done, its name is the receiver and nothing else is changed. -/
def Obligations.StepRunsTheDecodedCall : Prop :=
  ∀ (s : State) (dst : Name) (sp : Spelling) (k : Nat) (op : Operand) (rest : List Line) (ws : List Wire) (i : Instr),
    s.waiting = .call dst sp k op :: rest → operandWires s op = .ok ws → decode sp.unit ws = .ok i →
    step s = exec i { s with position := s.position + 1, receiver := dst }

/-- The host's words: a word that decodes is the next call of the state that has it as its fetch word, the first line of that
state's sequence, before the lines that were waiting. That a word is
presented to CORE, so that it is COMPUTE of its bits, and that its result goes to the name that is the receiver already, is
the model's choice (log entry 6); no rule of the spec says it, the operations having no opcode bits. -/
def Obligations.FetchWordIsTheNextCall : Prop :=
  ∀ (s : State) (nbits w : Nat) (i : Instr), decodeTableWord nbits w = some i →
    i = .compute (BitVec.ofNat 32 (w % 2 ^ nbits)) ∧
    step (s.withFetchWord nbits w) =
      exec i { s with parameters := { program := tableLine s nbits w :: s.waiting }, position := 1 }

/-- A call line with a literal or a bound name completes: the next state in full, for every spelling, alias and instance
(30_encoding.md R50), and also with wires that carry 32 bits, which the notation does not have (log entry 7). A line whose
name is bound already binds it again, the model's choice (log entry 4). -/
def Obligations.CallLineCompletes : Prop :=
  ∀ (s : State) (dst : Name) (sp : Spelling) (k : Nat) (op : Operand) (v : Word) (rest : List Line),
    s.waiting = .call dst sp k op :: rest →
    (op = .literal v ∨ (∃ n, op = .name n ∧ s.value n = some v) ∨ op = .wires (wiresOfWord v)) →
    step s = .next { s with
      position := s.position + 1, receiver := dst,
      names := bindName dst (match sp with
        | .MIX => mixed hardware v
        | .SWAP => swapResult hardware v
        | .sAlias => swapResult hardware v
        | .COMPUTE => swapResult hardware (mixed hardware v)
        | .computeAlias => swapResult hardware (mixed hardware v)
        | .computeResponseAlias => swapResult hardware (mixed hardware v)) s.names }

/-- An EXPECT line makes no call: it is passed exactly when its name is bound to the value of its operand, changing nothing
but the environment's place, and stops the run by name otherwise (30_encoding.md R50; that it stops is the model's choice, log entry
9). -/
def Obligations.ExpectLinePassesWhenEqual : Prop :=
  ∀ (s : State) (n : Name) (v w : Word) (op : Operand) (rest : List Line),
    s.waiting = .expect n op :: rest → s.value n = some v →
    (op = .literal w ∨ (∃ m, op = .name m ∧ s.value m = some w) ∨ op = .wires (wiresOfWord w)) →
    (v = w → step s = .next { s with position := s.position + 1 }) ∧ (v ≠ w → step s = .refused (.expectationFailed n))

/-- When the environment has no call to make, or names a result it has not taken, the step is refused by name: the model's
choice (log entries 4 and 8), resting on 10_state.md R15 and 30_encoding.md R50. -/
def Obligations.NoCallIsRefused : Prop :=
  ∀ s : State,
    (s.waiting = [] → step s = .refused .noCall) ∧
    (∀ (dst n : Name) (sp : Spelling) (k : Nat) (rest : List Line), s.waiting = .call dst sp k (.name n) :: rest →
      s.value n = none → step s = .refused (.unboundName n)) ∧
    (∀ (n : Name) (op : Operand) (rest : List Line), s.waiting = .expect n op :: rest → s.value n = none →
      step s = .refused (.unboundName n)) ∧
    ∀ (n m : Name) (v : Word) (rest : List Line), s.waiting = .expect n (.name m) :: rest → s.value n = some v →
      s.value m = none → step s = .refused (.unboundName m)

/-- Reset: the block's storage has one value, so a reset has nothing to set; no call has been made, no name is bound (the
environment's part is the model's choice, log entry 5). -/
def Obligations.ResetLeavesNothingStored : Prop :=
  (∀ a b : Storage, a = b) ∧ State.reset.parameters.program = [] ∧ State.reset.position = 0 ∧
  State.reset.names = [] ∧ State.reset.receiver = 0

/-- The result of a call does not depend on the state it is made in: whatever came before, after reset or not, a call gives
the same result (70_reset_and_hazards.md R98, R105; 10_state.md R21). Two runs that differ in everything but the line. -/
def Obligations.ResultDependsOnOperandAlone : Prop :=
  ∀ (s₁ s₂ : State) (d₁ d₂ : Name) (sp₁ sp₂ : Spelling) (k₁ k₂ : Nat) (op₁ op₂ : Operand) (v : Word) (r₁ r₂ : List Line),
    s₁.waiting = .call d₁ sp₁ k₁ op₁ :: r₁ → s₂.waiting = .call d₂ sp₂ k₂ op₂ :: r₂ → sp₁.unit = sp₂.unit →
    operandValue s₁ op₁ = .ok v → operandValue s₂ op₂ = .ok v →
    ∃ t₁ t₂, step s₁ = .next t₁ ∧ step s₂ = .next t₂ ∧ t₁.value d₁ = t₂.value d₂ ∧
      t₁.value d₁ = some (result hardware (sp₁.unit.call v))

/-! ### Invariants and runs -/

/-- Every step keeps the sequence of calls, a parameter and no state (10_state.md R23), and does one line of it; and it keeps
the bound names in canonical form, the model's one way of writing a set of bindings (log entry 4), and the environment's place
in its sequence (log entry 3). -/
def Obligations.StepKeepsNamesCanonical : Prop :=
  ∀ s t : State, step s = .next t →
    t.parameters = s.parameters ∧ t.position = s.position + 1 ∧ s.position < s.parameters.program.length ∧ (s.Inv → t.Inv)

/-- Reset meets the invariant, and is ready (its values are the model's choice, log entry 5). -/
def Obligations.ResetMeetsTheInvariants : Prop := State.reset.Inv ∧ State.reset.Ready

/-- Every step keeps a state ready: the lines still waiting use only names bound by then. -/
def Obligations.StepKeepsReady : Prop :=
  ∀ s t : State, s.Ready → step s = .next t → t.Ready

/-- A ready state with a line waiting steps, unless the line is an EXPECT whose two sides differ (that it stops then is the
model's choice, log entry 9). -/
def Obligations.ReadyStateSteps : Prop :=
  ∀ (s : State) (l : Line) (rest : List Line), s.Ready → s.waiting = l :: rest →
    (∃ t, step s = .next t ∧ t.waiting = rest) ∨
    ∃ (n : Name) (op : Operand) (v w : Word), l = .expect n op ∧ s.value n = some v ∧ operandValue s op = .ok w ∧ v ≠ w ∧
      step s = .refused (.expectationFailed n)

/-- Termination: the calls of a ready state run to the last, one step each, and then no line is left; the sequence and
the block are as they were before, and every name that the lines bind is bound (70_reset_and_hazards.md R108, 10_state.md
R23). -/
def Obligations.ReadyCallsRunToTheEnd : Prop :=
  ∀ s : State, s.Ready → s.waiting.all Line.isCall = true →
    ∃ t, run s.waiting.length s = .next t ∧ t.waiting = [] ∧ t.parameters = s.parameters ∧ t.block = s.block ∧ t.Inv ∧
      ∀ (d : Name) (sp : Spelling) (k : Nat) (op : Operand), .call d sp k op ∈ s.waiting → ∃ v, t.value d = some v

/-- The order of calls and the instances they are made on do not matter: two lists of calls that differ in order and in
instances only, each call with a result name of its own, run to the end and leave the same names bound, each to the function
of its own operand; the block stores nothing in between (20_memory.md R32). -/
def Obligations.CallOrderDoesNotMatter : Prop :=
  (∀ a b : Storage, a = b) ∧
  ∀ (s₁ s₂ : State) (cs₁ cs₂ : List LiteralCall),
    s₁.Inv → s₂.names = s₁.names → (cs₁.map LiteralCall.dst).Nodup →
    (cs₁.map (LiteralCall.onInstance 0)).Perm (cs₂.map (LiteralCall.onInstance 0)) →
    s₁.waiting = cs₁.map LiteralCall.line → s₂.waiting = cs₂.map LiteralCall.line →
    ∃ t₁ t₂, run cs₁.length s₁ = .next t₁ ∧ run cs₂.length s₂ = .next t₂ ∧
      t₁.names = t₂.names ∧ (∀ c ∈ cs₁, t₁.value c.dst = some (result hardware c.instr)) ∧
      ∀ n, n ∉ cs₁.map LiteralCall.dst → t₁.value n = s₁.value n

/-- Determinism: two calls of one prompt, any ready calls between them, on any instances, end with one result, which is the
response of the prompt; and so do two calls made from any two states, as before and after a power cycle (42_compute.md R73).
The calls between may bind the second name, and the two names may be one: that a name bound again names the new result is
the model's choice (log entry 4). -/
def Obligations.ComputeTwiceIsIdentical : Prop :=
  (∀ (s : State) (p : Word) (n₁ n₂ : Name) (sp₁ sp₂ : Spelling) (j k : Nat) (between : List Line),
    sp₁.unit = .core → sp₂.unit = .core →
    s.waiting = .call n₁ sp₁ j (.literal p) :: between ++ [.call n₂ sp₂ k (.literal p)] → s.Ready →
    between.all Line.isCall = true → (∀ (sp : Spelling) (l : Nat) (op : Operand), .call n₁ sp l op ∉ between) →
    ∃ t, run s.waiting.length s = .next t ∧ t.value n₁ = t.value n₂ ∧ t.value n₁ = some (response hardware p)) ∧
  ∀ (s₁ s₂ : State) (p : Word) (n₁ n₂ : Name) (sp₁ sp₂ : Spelling) (j k : Nat) (r₁ r₂ : List Line),
    sp₁.unit = .core → sp₂.unit = .core →
    s₁.waiting = .call n₁ sp₁ j (.literal p) :: r₁ → s₂.waiting = .call n₂ sp₂ k (.literal p) :: r₂ →
    ∃ t₁ t₂, run 1 s₁ = .next t₁ ∧ run 1 s₂ = .next t₂ ∧ t₁.value n₁ = t₂.value n₂ ∧
      t₁.value n₁ = some (response hardware p)

/-- Instances share nothing: changing the numbers of the instances that a program's calls are made on changes no outcome and no
result (60_exceptions.md R94), for one step and for a run of any length. -/
def Obligations.InstancesAreInterchangeable : Prop :=
  ∀ (f : Nat → Nat) (s : State),
    step (s.renumber f) = mapNext (State.renumber f) (step s) ∧
    ∀ k : Nat, run k (s.renumber f) = mapNext (State.renumber f) (run k s)
end

