-- ==== Sys2Proof/Laws/Bits.lean ====
section
/-! SUPPORT. The shared bit operations, bit by bit. -/

namespace Sys2Proof.Machine

theorem getLsbD_bit (k i : Nat) : (bit k).getLsbD i = (decide (i < 32) && decide (i = k)) := by
  unfold bit
  rw [BitVec.getLsbD_shiftLeft, BitVec.getLsbD_one]
  by_cases h : i < 32 <;> by_cases hk : i < k <;> simp [h, hk]; all_goals omega

theorem getLsbD_placeBit (x : Word) (src dst i : Nat) :
    (placeBit x src dst).getLsbD i = (decide (i < 32) && decide (i = dst) && x.getLsbD src) := by
  unfold placeBit
  rw [BitVec.getLsbD_shiftLeft, BitVec.getLsbD_setWidth, BitVec.getLsbD_ofBool]
  by_cases hi : i < 32
  · rcases lt_trichotomy i dst with h | rfl | h
    · simp [h, h.ne]
    · simp [hi]
    · have h0 : ¬ i - dst = 0 := by omega
      simp only [h0, h.ne', decide_false, Bool.false_and, Bool.and_false]
  · simp [hi]

/-- The OR of a family of words, bit by bit. -/
theorem getLsbD_foldl_or {α : Type} (f : α → Word) (i : Nat) : ∀ (l : List α) (acc : Word),
    (l.foldl (fun a p => a ||| f p) acc).getLsbD i = (acc.getLsbD i || l.any fun p => (f p).getLsbD i)
  | [], acc => by simp
  | p :: l, acc => by simp [getLsbD_foldl_or f i l, Bool.or_assoc]

theorem getLsbD_swapMask (c : Config) (i : Nat) :
    (swapMask c).getLsbD i = c.swapTable.any fun p => (pairMask p).getLsbD i := by
  simp [swapMask, getLsbD_foldl_or]

theorem getLsbD_swapped (c : Config) (x : Word) (i : Nat) :
    (swapped c x).getLsbD i = c.swapTable.any fun p => (contribution x p).getLsbD i := by
  simp [swapped, getLsbD_foldl_or]

theorem getLsbD_swapResult (c : Config) (x : Word) (i : Nat) :
    (swapResult c x).getLsbD i = (x.getLsbD i && (keepMask c).getLsbD i || (swapped c x).getLsbD i) := by
  simp [swapResult]

/-- The exact product narrowed to 32 bits is the wrapping product of the words (40_mix.md R55). -/
theorem product_eq_mul (c : Config) (p : Word) : product c p = p * c.mulConst := by
  rw [product, trunc32, exactProduct, BitVec.ofNat_mul, BitVec.ofNat_toNat, BitVec.ofNat_toNat, BitVec.setWidth_eq,
    BitVec.setWidth_eq]

end Sys2Proof.Machine
end

