-- ==== Sys2Proof/Laws/Config.lean ====
section
/-! SUPPORT. What a well-formed configuration satisfies. -/

namespace Sys2Proof

namespace Config.WF

variable {c : Config} (h : c.WF)

include h

/-- The four checks, each passed. -/
theorem checks : c.width = 32 ∧ c.swapTable.length = c.npairs ∧ (∀ i ∈ c.indices, i < c.width) ∧ c.indices.Nodup := by
  unfold Config.WF Config.build at h
  split at h
  · cases h
  · split at h
    · cases h
    · split at h
      · cases h
      · split at h
        · cases h
        · next h1 h2 h3 h4 => exact ⟨not_not.mp h1, not_not.mp h2, not_not.mp h3, not_not.mp h4⟩

theorem nodup : c.indices.Nodup := h.checks.2.2.2

theorem index_lt {i : Nat} (hi : i ∈ c.indices) : i < 32 := h.checks.1 ▸ h.checks.2.2.1 i hi

end Config.WF

end Sys2Proof
end

