-- ==== Sys2Proof/Laws/State.lean ====
section
/-! SUPPORT. Each field of the state after each update of it, the lines waiting among them. -/

namespace Sys2Proof.Machine

variable (v : Word) (d : Name) (s : State) (nbits w : Nat)

@[simp] theorem deliver_parameters : (deliver v s).parameters = s.parameters := rfl
@[simp] theorem deliver_block : (deliver v s).block = s.block := rfl
@[simp] theorem deliver_names : (deliver v s).names = bindName s.receiver v s.names := rfl
@[simp] theorem deliver_receiver : (deliver v s).receiver = s.receiver := rfl
@[simp] theorem deliver_position : (deliver v s).position = s.position := rfl
@[simp] theorem deliver_waiting : (deliver v s).waiting = s.waiting := rfl

@[simp] theorem beginCall_parameters : (beginCall d s).parameters = s.parameters := rfl
@[simp] theorem beginCall_block : (beginCall d s).block = s.block := rfl
@[simp] theorem beginCall_names : (beginCall d s).names = s.names := rfl
@[simp] theorem beginCall_receiver : (beginCall d s).receiver = d := rfl
@[simp] theorem beginCall_position : (beginCall d s).position = s.position + 1 := rfl

@[simp] theorem passLine_parameters : (passLine s).parameters = s.parameters := rfl
@[simp] theorem passLine_block : (passLine s).block = s.block := rfl
@[simp] theorem passLine_names : (passLine s).names = s.names := rfl
@[simp] theorem passLine_receiver : (passLine s).receiver = s.receiver := rfl
@[simp] theorem passLine_position : (passLine s).position = s.position + 1 := rfl

@[simp] theorem withFetchWord_program :
    (s.withFetchWord nbits w).parameters.program = tableLine s nbits w :: s.waiting := rfl
@[simp] theorem withFetchWord_block : (s.withFetchWord nbits w).block = s.block := rfl
@[simp] theorem withFetchWord_names : (s.withFetchWord nbits w).names = s.names := rfl
@[simp] theorem withFetchWord_receiver : (s.withFetchWord nbits w).receiver = s.receiver := rfl
@[simp] theorem withFetchWord_position : (s.withFetchWord nbits w).position = 0 := rfl
@[simp] theorem withFetchWord_waiting : (s.withFetchWord nbits w).waiting = tableLine s nbits w :: s.waiting := rfl

@[simp] theorem value_beginCall (n : Name) : (beginCall d s).value n = s.value n := rfl
@[simp] theorem value_passLine (n : Name) : (passLine s).value n = s.value n := rfl

/-- Done with a line, the environment's place is at the next one. -/
theorem passLine_waiting {l : Line} {rest : List Line} (h : s.waiting = l :: rest) : (passLine s).waiting = rest := by
  have e : s.parameters.program.drop (s.position + 1) = (s.parameters.program.drop s.position).drop 1 := by
    rw [List.drop_drop]
  exact e.trans (congrArg (List.drop 1) h)

/-- Turning to a call, the environment's place is at the next line. -/
theorem beginCall_waiting {l : Line} {rest : List Line} (h : s.waiting = l :: rest) : (beginCall d s).waiting = rest :=
  passLine_waiting s h

/-- With a line waiting, the environment's place is in its sequence. -/
theorem position_lt_of_waiting {l : Line} {rest : List Line} (h : s.waiting = l :: rest) :
    s.position < s.parameters.program.length := by
  have e : s.waiting.length = s.parameters.program.length - s.position := List.length_drop
  rw [h, List.length_cons] at e
  omega

end Sys2Proof.Machine
end

