-- ==== Sys2Proof/Laws/Names.lean ====
section
/-! SUPPORT. The bound names: read after binding, other names, the canonical form, and equal bindings are equal data. -/

namespace Sys2Proof.Machine

theorem lookup_bindName_self (n : Name) (v : Word) : ∀ l, lookup n (bindName n v l) = some v
  | [] => by simp [bindName, lookup]
  | (m, w) :: rest => by
    unfold bindName
    split
    · simp [lookup]
    · split
      · simp [lookup]
      · next h => simpa [lookup, h] using lookup_bindName_self n v rest

theorem lookup_bindName_ne {n k : Name} (h : k ≠ n) (v : Word) : ∀ l, lookup k (bindName n v l) = lookup k l
  | [] => by simp [bindName, lookup, h]
  | (m, w) :: rest => by
    unfold bindName
    split
    · simp [lookup, h]
    · split
      · next hm => subst hm; simp [lookup, h]
      · simp [lookup, lookup_bindName_ne h v rest]

theorem mem_names_bindName (n k : Name) (v : Word) : ∀ l : List (Name × Word),
    k ∈ (bindName n v l).map Prod.fst ↔ k = n ∨ k ∈ l.map Prod.fst
  | [] => by simp [bindName]
  | (m, w) :: rest => by
    have ih := mem_names_bindName n k v rest
    unfold bindName
    split
    · simp
    · split
      · next hm => subst hm; simp
      · rw [List.map_cons, List.mem_cons, ih, List.map_cons, List.mem_cons]
        tauto

/-- `bindName` keeps the canonical form. -/
theorem bindName_namesWf (n : Name) (v : Word) : ∀ l, NamesWf l → NamesWf (bindName n v l)
  | [], _ => by simp [bindName, NamesWf]
  | (m, w) :: rest, h => by
    have hm : ∀ k ∈ rest.map Prod.fst, m < k := (List.pairwise_cons.mp h).1
    have hr : NamesWf rest := (List.pairwise_cons.mp h).2
    unfold bindName
    split
    · next hn =>
      refine List.pairwise_cons.mpr ⟨fun k hk => ?_, h⟩
      rcases List.mem_cons.mp hk with rfl | hk
      · exact hn
      · exact lt_trans hn (hm k hk)
    · next hlt =>
      split
      · next he => subst he; exact List.pairwise_cons.mpr ⟨hm, hr⟩
      · next hne =>
        refine List.pairwise_cons.mpr ⟨fun k hk => ?_, bindName_namesWf n v rest hr⟩
        rcases (mem_names_bindName n k v rest).mp hk with rfl | hk
        · exact lt_of_le_of_ne (not_lt.mp hlt) (Ne.symm hne)
        · exact hm k hk

theorem lookup_isSome_iff (n : Name) : ∀ l : List (Name × Word), (∃ v, lookup n l = some v) ↔ n ∈ l.map Prod.fst
  | [] => by simp [lookup]
  | (m, w) :: rest => by
    unfold lookup
    split
    · next h => subst h; simp
    · next h => rw [lookup_isSome_iff n rest]; simp [h]

/-- Equal bindings are equal data, in canonical form. -/
theorem names_ext : ∀ l l' : List (Name × Word), NamesWf l → NamesWf l' → (∀ n, lookup n l = lookup n l') → l = l'
  | [], [], _, _, _ => rfl
  | [], (m, w) :: _, _, _, h => by simpa [lookup] using h m
  | (m, w) :: _, [], _, _, h => by simpa [lookup] using h m
  | (m, w) :: r, (m', w') :: r', hl, hl', h => by
    have below : ∀ (k : Name) (l : List (Name × Word)), (∀ j ∈ l.map Prod.fst, k < j) → lookup k l = none := by
      intro k l hk
      rcases hc : lookup k l with _ | v
      · rfl
      · exact absurd (hk k ((lookup_isSome_iff k l).mp ⟨v, hc⟩)) (lt_irrefl k)
    have hm := (List.pairwise_cons.mp hl).1
    have hm' := (List.pairwise_cons.mp hl').1
    rcases lt_trichotomy m m' with hlt | rfl | hgt
    · have := h m
      rw [below m ((m', w') :: r') fun j hj => by
        rcases List.mem_cons.mp hj with rfl | hj
        · exact hlt
        · exact lt_trans hlt (hm' j hj)] at this
      simp [lookup] at this
    · have hw : w = w' := by simpa [lookup] using h m
      have hr : r = r' := names_ext r r' (List.pairwise_cons.mp hl).2 (List.pairwise_cons.mp hl').2 fun n => by
        by_cases hn : n = m
        · subst hn; rw [below n r hm, below n r' hm']
        · simpa [lookup, hn] using h n
      rw [hw, hr]
    · have := h m'
      rw [below m' ((m, w) :: r) fun j hj => by
        rcases List.mem_cons.mp hj with rfl | hj
        · exact hgt
        · exact lt_trans hgt (hm j hj)] at this
      simp [lookup] at this

@[simp] theorem value_deliver_self (v : Word) (s : State) : (deliver v s).value s.receiver = some v :=
  lookup_bindName_self _ _ _

theorem value_deliver_ne {n : Name} (v : Word) (s : State) (h : n ≠ s.receiver) : (deliver v s).value n = s.value n :=
  lookup_bindName_ne h _ _

end Sys2Proof.Machine
end

