-- ==== Sys2Proof/Laws/PerInstr.lean ====
section
/-! SUPPORT. What is true of the encoding of every operation, operation by operation: it addresses the operation's unit and
drives 32 wires, each with a bit (30_encoding.md R37 to R39, R50). -/

namespace Sys2Proof

theorem wiresOfNat_length : ∀ n v : Nat, (wiresOfNat n v).length = n
  | 0, _ => rfl
  | n + 1, v => by simp [wiresOfNat, wiresOfNat_length n]

theorem wiresOfNat_defined : ∀ n v : Nat, (wiresOfNat n v).all Wire.defined = true
  | 0, _ => rfl
  | n + 1, v => by
    have h : (Wire.ofBool (v % 2 == 1)).defined = true := by cases v % 2 == 1 <;> rfl
    simp only [wiresOfNat, List.all_cons, h, wiresOfNat_defined n, Bool.and_self]

theorem wiresOfWord_wf (v : Word) : wiresWf (wiresOfWord v) = true := by
  simp only [wiresWf, wiresOfWord, wiresOfNat_length, wiresOfNat_defined, BEq.rfl, Bool.and_self]

namespace Laws.EncodedWires

/-- The encoding of an operation: its unit, and the well-formed wires of its operand. -/
def Statement (i : Instr) : Prop :=
  (encode i).1 = i.unit ∧ wiresWf (encode i).2 = true ∧ (encode i).2 = wiresOfWord i.operand ∧ i.unit.call i.operand = i

theorem mix (prompt : Word) : Statement (.mix prompt) := ⟨rfl, wiresOfWord_wf prompt, rfl, rfl⟩

theorem swap (x : Word) : Statement (.swap x) := ⟨rfl, wiresOfWord_wf x, rfl, rfl⟩

theorem compute (prompt : Word) : Statement (.compute prompt) := ⟨rfl, wiresOfWord_wf prompt, rfl, rfl⟩

end Laws.EncodedWires

end Sys2Proof
end

