-- ==== Sys2Proof/Laws/Step.lean ====
section
/-! SUPPORT. What a call and a step can do, each said once. -/

namespace Sys2Proof.Machine

/-- A call delivers its result, and does nothing else. -/
theorem exec_eq_next (i : Instr) (s : State) : exec i s = .next (deliver (result hardware i) s) := by
  cases i <;> rfl

/-- What a call line can be fetched as: the call its operand wires decode to. -/
theorem fetchCall_eq_ok {dst : Name} {u : UnitId} {op : Operand} {s : State} {f : Fetched} :
    fetchCall dst u op s = .ok f ↔
      ∃ ws i, operandWires s op = .ok ws ∧ decode u ws = .ok i ∧ f = .call i (beginCall dst s) := by
  unfold fetchCall
  rcases operandWires s op with r | ws
  · simp
  · rcases hd : decode u ws with e | i
    · simp [hd]
    · simp [hd, eq_comm]

/-- What an EXPECT line can be fetched as: nothing, both sides being equal. -/
theorem fetchExpect_eq_ok {n : Name} {op : Operand} {s : State} {f : Fetched} :
    fetchExpect n op s = .ok f ↔
      ∃ v, s.value n = some v ∧ operandValue s op = .ok v ∧ f = .passed (passLine s) := by
  unfold fetchExpect
  rcases s.value n with _ | v
  · simp
  · rcases operandValue s op with r | w
    · simp
    · by_cases h : v = w
      · subst h; simp [eq_comm]
      · simp [h, Ne.symm h]

/-- Everything a step that answers a next state can be: a call line run, or an EXPECT line passed. -/
theorem step_cases {s t : State} (h : step s = .next t) :
    (∃ dst sp k op rest ws i, s.waiting = .call dst sp k op :: rest ∧ operandWires s op = .ok ws ∧
      decode sp.unit ws = .ok i ∧ t = deliver (result hardware i) (beginCall dst s)) ∨
    (∃ n op rest v, s.waiting = .expect n op :: rest ∧ s.value n = some v ∧ operandValue s op = .ok v ∧
      t = passLine s) := by
  have hf : ∃ f, fetch s = .ok f := by
    rcases hs : fetch s with r | f
    · simp [step, hs] at h
    · exact ⟨f, rfl⟩
  obtain ⟨f, hf⟩ := hf
  have hf' := hf
  unfold fetch at hf'
  split at hf'
  · simp at hf'
  · next dst sp k op rest hp =>
    obtain ⟨ws, i, hw, hd, rfl⟩ := fetchCall_eq_ok.mp hf'
    refine .inl ⟨dst, sp, k, op, rest, ws, i, hp, hw, hd, ?_⟩
    simpa [step, hf, exec_eq_next, eq_comm] using h
  · next n op rest hp =>
    obtain ⟨v, hv, ho, rfl⟩ := fetchExpect_eq_ok.mp hf'
    refine .inr ⟨n, op, rest, v, hp, hv, ho, ?_⟩
    simpa [step, hf, eq_comm] using h

/-- A step that answers a next state does the first of the lines that wait, and leaves the others waiting. -/
theorem step_waiting {s t : State} (h : step s = .next t) : ∃ l, s.waiting = l :: t.waiting := by
  obtain ⟨dst, sp, k, op, rest, ws, i, hp, -, -, rfl⟩ | ⟨n, op, rest, v, hp, -, -, rfl⟩ := step_cases h
  · exact ⟨_, by rw [deliver_waiting, beginCall_waiting _ _ hp, hp]⟩
  · exact ⟨_, by rw [passLine_waiting _ hp, hp]⟩

end Sys2Proof.Machine
end

