-- ==== Sys2Proof/Laws/Run.lean ====
section
/-! SUPPORT. Runs of many steps: one step at a time, in two parts, and the induction over a run. A state with other
instance numbers, field by field. -/

namespace Sys2Proof.Machine

theorem run_zero (s : State) : run 0 s = .next s := rfl

/-- A run that begins with a step to a next state goes on from there. -/
theorem run_succ_of_next {s s' : State} (h : step s = .next s') (k : Nat) :
    run (k + 1) s = run k s' := by
  have h' : Sys2Proof.core.step s = .next s' := h
  have e := Host.Core.run.eq_2 Sys2Proof.core s k
  rw [h'] at e
  exact e

/-- A run whose first step is refused is refused. -/
theorem run_succ_of_refused {s : State} {r : Refusal} (h : step s = .refused r) (k : Nat) :
    run (k + 1) s = .refused r := by
  have h' : Sys2Proof.core.step s = .refused r := h
  have e := Host.Core.run.eq_2 Sys2Proof.core s k
  rw [h'] at e
  exact e

/-- The first step of a run that ends in a next state. -/
theorem run_succ_eq_next {s t : State} {k : Nat} (h : run (k + 1) s = .next t) :
    ∃ s', step s = .next s' ∧ run k s' = .next t := by
  rcases hs : step s with s' | r | r
  · exact ⟨s', rfl, by rw [← run_succ_of_next hs]; exact h⟩
  · exact nomatch r
  · exact nomatch (run_succ_of_refused hs k).symm.trans h

/-- A run in two parts. -/
theorem run_add {s s' : State} {j : Nat} (k : Nat) (h : run j s = .next s') :
    run (j + k) s = run k s' := by
  induction j generalizing s with
  | zero =>
    cases h
    rw [Nat.zero_add]
  | succ j ih =>
    obtain ⟨s'', h1, h2⟩ := run_succ_eq_next h
    rw [Nat.add_right_comm, run_succ_of_next h1, ih h2]

/-- What every step keeps holds after a run of any length. -/
theorem run_keeps {P : State → Prop} (hstep : ∀ s t, P s → step s = .next t → P t) :
    ∀ (k : Nat) (s t : State), P s → run k s = .next t → P t
  | 0, _, _, hs, h => by cases h; exact hs
  | k + 1, s, t, hs, h => by
    obtain ⟨s', h1, h2⟩ := run_succ_eq_next h
    exact run_keeps hstep k s' t (hstep s s' hs h1) h2

section Renumber

variable (f : Nat → Nat) (s : State)

@[simp] theorem renumber_block : (s.renumber f).block = s.block := rfl
@[simp] theorem renumber_names : (s.renumber f).names = s.names := rfl
@[simp] theorem renumber_receiver : (s.renumber f).receiver = s.receiver := rfl
@[simp] theorem renumber_position : (s.renumber f).position = s.position := rfl
@[simp] theorem renumber_value (n : Name) : (s.renumber f).value n = s.value n := rfl
@[simp] theorem renumber_waiting : (s.renumber f).waiting = s.waiting.map (renumberLine f) := (List.map_drop ..).symm

end Renumber

end Sys2Proof.Machine
end

