-- ==== Sys2Proof/Tests/Slice0.lean ====
section
/-! SUPPORT. The model's own tests: each check of WellFormed refuses an ill-formed term; wires written out from the spec decode
to the call they stand for; calls and lines give the values of 95_test_vectors.md, 40_mix.md R57, 41_swap.md R70 and
42_compute.md R75; and for each statement with hypotheses a concrete case that meets them. -/

namespace Sys2Proof.Tests

open Sys2Proof Sys2Proof.Machine

/-! ### Ill-formed terms are refused -/

/-- The hardware's configuration with another table. -/
def withTable (t : List (Nat × Nat)) : Config := { hardware with swapTable := t, npairs := t.length }

theorem test_build_accepts_hardware : hardware.build = .ok hardware := by decide
theorem test_build_refuses_width : ({ hardware with width := 16 } : Config).build = .error .width := by decide
theorem test_build_refuses_npairs : ({ hardware with npairs := 7 } : Config).build = .error .npairs := by decide
theorem test_build_refuses_index_32 : (withTable [(31, 4), (32, 5)]).build = .error .indexRange := by decide
theorem test_build_refuses_repeated_index : (withTable [(31, 4), (4, 5)]).build = .error .repeatedIndex := by decide
theorem test_build_refuses_pair_with_itself : (withTable [(7, 7)]).build = .error .repeatedIndex := by decide
/-- No operand makes an instruction ill formed (30_encoding.md R48). -/
theorem test_instr_wf_extremes : (Instr.mix 0#32).wf && (Instr.swap 0xFFFFFFFF#32).wf && (Instr.compute 0x80000000#32).wf := by
  decide
theorem test_wires_wf_refuses_31 : wiresWf (List.replicate 31 .one) = false := by decide
theorem test_wires_wf_refuses_undriven : wiresWf (.undriven :: List.replicate 31 .one) = false := by decide
theorem test_wires_wf_refuses_unknown : wiresWf (List.replicate 31 .one ++ [.unknown]) = false := by decide
theorem test_program_wf_refuses_unbound_operand : programWf [] [.call 1 .SWAP 0 (.name 0), .call 0 .MIX 0 (.literal 0#32)] = false := by
  decide
theorem test_program_wf_refuses_unbound_expect : programWf [] [.expect 0 (.literal 0#32)] = false := by decide
theorem test_program_wf_accepts_bound_earlier :
    programWf [] [.call 0 .MIX 0 (.literal 0#32), .call 1 .SWAP 0 (.name 0), .expect 1 (.name 0)] = true := by decide

/-! ### Decoding: wires written out from 30_encoding.md R39, bit 31 on the left -/

/-- Wires from bits written with bit 31 on the left, as 95_test_vectors.md section 3 writes them. -/
def wiresFrom31 (bits : List Nat) : List Wire := bits.reverse.map fun b => if b = 1 then .one else .zero

/-- The operand wires of program P2, line 1. -/
def p2Wires : List Wire := wiresFrom31 [0,0,0,1, 0,0,1,0, 0,0,1,1, 0,1,0,0, 0,1,0,1, 0,1,1,0, 0,1,1,1, 1,0,0,0]

theorem test_decode_mix_p2 : decode .mixer p2Wires = .ok (.mix 0x12345678#32) := by decide
theorem test_decode_compute_p2 : decode .core p2Wires = .ok (.compute 0x12345678#32) := by decide
theorem test_decode_swap_p2_line2 :
    decode .swapper (wiresFrom31 [0,0,1,0, 1,1,1,0, 1,1,1,0, 1,0,0,1, 1,1,0,0, 1,0,0,0, 0,1,1,1, 0,1,0,1]) =
      .ok (.swap 0x2EE9C875#32) := by decide
theorem test_encode_swap_bit31 : encode (.swap 0x80000000#32) = (.swapper, wiresFrom31 (1 :: List.replicate 31 0)) := by decide
theorem test_decode_refuses_wire_31_undriven :
    decode .core (List.replicate 31 .one ++ [.undriven]) = .error (.undriven 31) := by decide
theorem test_decode_refuses_33_wires : decode .core (List.replicate 33 .one) = .error (.portWidth 33) := by decide
theorem test_table_word_without_bits : decodeTableWord 0 0 = some (.compute 0#32) := by decide
theorem test_table_word_of_32_bits : decodeTableWord 32 0x12345678 = some (.compute 0x12345678#32) := by decide
theorem test_table_word_of_33_bits : decodeTableWord 33 0 = none := by decide

/-! ### Calls: values of 40_mix.md R57, 41_swap.md R70, 95_test_vectors.md sections 2.1, 2.3 and 2.5 -/

/-- A state with one bound name, whose receiver is name 1. -/
def base : State := { State.reset with names := [(0, 5#32)], receiver := 1 }

theorem test_mix_overflow : exec (.mix 0x00000004#32) base = .next { base with names := [(0, 5#32), (1, 0x5FEEF789#32)] } := rfl
theorem test_mix_of_zero_pre : mixed hardware 0x9FFD67ED#32 = 0#32 := by decide
theorem test_swap_mixed_pattern :
    exec (.swap 0xDEADBEEF#32) base = .next { base with names := [(0, 5#32), (1, 0x7EA9FEBF#32)] } := rfl
theorem test_swap_first_indices : swapResult hardware 0x8204D408#32 = 0x20802872#32 := by decide
theorem test_compute_feedback :
    exec (.compute 0x49861147#32) base = .next { base with names := [(0, 5#32), (1, 0x4E149DFA#32)] } := rfl
/-- The rejected bit numbering would give 0x3B887009 (95_test_vectors.md section 2.6). -/
theorem test_compute_scenario_1 : response hardware 0#32 = 0x49861147#32 := by decide

/-! ### Lines -/

/-- A state whose sequence of lines is this, none of them done. -/
def withLines (ls : List Line) : State := { base with parameters := { program := ls } }

theorem test_step_call_rebinds :
    step (withLines [.call 0 .COMPUTE 7 (.literal 1#32)]) =
      .next { withLines [.call 0 .COMPUTE 7 (.literal 1#32)] with
        position := 1, receiver := 0, names := [(0, 0x069D84C6#32)] } := rfl
theorem test_step_alias_of_name :
    step (withLines [.call 9 .sAlias 0 (.name 0)]) = 
      .next { withLines [.call 9 .sAlias 0 (.name 0)] with position := 1, receiver := 9, names := [(0, 5#32), (9, 5#32)] } := rfl
theorem test_step_expect_fails : step (withLines [.expect 0 (.literal 4#32)]) = .refused (.expectationFailed 0) := rfl
theorem test_step_expect_passes : step (withLines [.expect 0 (.literal 5#32)]) =
    .next { withLines [.expect 0 (.literal 5#32)] with position := 1 } := rfl
theorem test_step_from_reset : step State.reset = .refused .noCall := rfl
theorem test_fetch_word_runs : step (base.withFetchWord 32 0x12345678) =
    .next { base.withFetchWord 32 0x12345678 with position := 1, names := [(0, 5#32), (1, 0x8E6D7465#32)] } := rfl

/-! ### Each statement with hypotheses has a case that meets them -/

/-- A well-formed configuration other than the hardware's: one pair, an even multiplier. -/
def onePair : Config := { width := 32, npairs := 1, mulConst := 2#32, xorConst := 1#32, swapTable := [(0, 31)] }

theorem witness_config_wf : onePair.WF ∧ onePair.xorConst ≠ 0#32 := by decide
theorem witness_config_pair : (0, 31) ∈ onePair.swapTable ∧ 5 ∉ onePair.indices ∧ 31 ∈ onePair.indices := by decide
theorem witness_SwapTableInvariant : ¬ (withTable [(31, 4), (4, 5)]).indices.Nodup := by decide
theorem witness_OddMultiplierMixIsBijective : hardware.mulConst.toNat % 2 = 1 := by decide
theorem witness_BuildAcceptsExactlyTheChecks : onePair.build = .ok onePair := by decide
theorem witness_KeepMaskOfTable : onePair.swapTable = { onePair with mulConst := 3#32 }.swapTable := rfl
theorem witness_PairMasksAreDisjoint : (0 : Nat) < 32 ∧ (31 : Nat) < 32 := by decide
theorem witness_ContributionSwapsTwoBits : (0 : Nat) < 32 ∧ (31 : Nat) < 32 ∧ (0 : Nat) ≠ 31 ∧
    (1#32).getLsbD 0 = true ∧ (1#32).getLsbD 31 = false ∧ (0x80000000#32).getLsbD 0 = false ∧
    (0x80000000#32).getLsbD 31 = true ∧ (0x80000001#32).getLsbD 0 = true ∧ (0x80000001#32).getLsbD 31 = true ∧
    (0#32).getLsbD 0 = false := by decide
theorem witness_MixLinearityFacts : ∀ j, j ≤ 3 → (0x0F#32).getLsbD j = (0xFF#32).getLsbD j := by decide
theorem witness_PairOrder : [(1, 0), (2, 3)].Perm [(2, 3), (1, 0)] ∧
    List.Forall₂ (fun p q : Nat × Nat => p = q ∨ p = q.swap) [(1, 0), (2, 3)] [(0, 1), (2, 3)] := by
  refine ⟨List.Perm.swap _ _ _, .cons (.inr rfl) (.cons (.inl rfl) .nil)⟩
theorem witness_SwapPreservesPopcount : 0x5D7B0385#32 &&& 0xA284FC7A#32 = 0#32 := by decide
theorem witness_DecodeAndEncodeAgree : decode .swapper p2Wires = .ok (.swap 0x12345678#32) := by decide
theorem witness_UnitDecoderIsConstant : wiresWf p2Wires = true := by decide
theorem witness_UndefinedOperandIsRefused :
    wiresWf (List.replicate 31 .one ++ [.undriven]) = false ∧ base.value 0 = some 5#32 ∧
    step (withLines [.call 2 .SWAP 0 (.wires (List.replicate 31 .one ++ [.undriven]))]) =
      .refused (.undefinedOperand (.undriven 31)) ∧
    step (withLines [.expect 0 (.wires (List.replicate 31 .one ++ [.undriven]))]) =
      .refused (.undefinedOperand (.undriven 31)) := ⟨by decide, rfl, rfl, rfl⟩
theorem witness_UndefinedOperandIsNamed_width : (List.replicate 33 Wire.one).length ≠ 32 ∧ ([] : List Wire).length ≠ 32 := by decide
theorem witness_UndefinedOperandIsNamed_wire : (Wire.undriven :: List.replicate 31 Wire.unknown).length = 32 ∧
    ([] : List Wire).all Wire.defined = true ∧ (List.replicate 31 Wire.zero ++ [Wire.unknown]).length = 32 ∧
    (List.replicate 31 Wire.zero).all Wire.defined = true ∧
    step (withLines [.call 2 .MIX 0 (.wires (.undriven :: List.replicate 31 .unknown))]) =
      .refused (.undefinedOperand (.undriven 0)) ∧
    step (withLines [.call 2 .COMPUTE 0 (.wires (List.replicate 31 .zero ++ [.unknown]))]) =
      .refused (.undefinedOperand (.unknown 31)) := ⟨by decide, by decide, by decide, by decide, rfl, rfl⟩
theorem witness_CallChangesOnlyTheReceivingName :
    exec (.mix 0#32) base = .next (deliver 0x6982510D#32 base) ∧ 0 ≠ base.receiver := ⟨rfl, by decide⟩
theorem witness_CallIsIdempotent : exec (.swap 1#32) base = .next (deliver 1#32 base) := rfl
theorem witness_StepRunsTheDecodedCall :
    (withLines [.call 2 .MIX 0 (.name 0)]).waiting = .call 2 .MIX 0 (.name 0) :: [] ∧
    operandWires (withLines [.call 2 .MIX 0 (.name 0)]) (.name 0) = .ok (wiresOfWord 5#32) ∧
    decode Spelling.MIX.unit (wiresOfWord 5#32) = .ok (.mix 5#32) := ⟨rfl, rfl, by decide⟩
theorem witness_FetchWordIsTheNextCall : decodeTableWord 8 0xA5 = some (.compute 0xA5#32) := by decide
theorem witness_CallLineCompletes :
    (withLines [.call 2 .SWAP 3 (.name 0)]).waiting = .call 2 .SWAP 3 (.name 0) :: [] ∧
    (withLines [.call 2 .SWAP 3 (.name 0)]).value 0 = some 5#32 := ⟨rfl, rfl⟩
theorem witness_ExpectLine :
    (withLines [.expect 0 (.name 0)]).value 0 = some 5#32 ∧ (withLines [.expect 0 (.literal 4#32)]).value 0 = some 5#32 ∧
    (5#32 : Word) ≠ 4#32 := ⟨rfl, rfl, by decide⟩
theorem witness_NoCallIsRefused :
    State.reset.waiting = [] ∧ (withLines [.call 2 .SWAP 0 (.name 3)]).value 3 = none ∧
    step (withLines [.call 2 .SWAP 0 (.name 3)]) = .refused (.unboundName 3) ∧
    step (withLines [.expect 3 (.name 0)]) = .refused (.unboundName 3) ∧
    step (withLines [.expect 0 (.name 3)]) = .refused (.unboundName 3) := ⟨rfl, rfl, rfl, rfl, rfl⟩
theorem witness_ResultDependsOnOperandAlone :
    Spelling.COMPUTE.unit = Spelling.computeAlias.unit ∧
    operandValue (withLines [.call 2 .COMPUTE 0 (.name 0)]) (.name 0) = .ok 5#32 ∧
    operandValue { State.reset with parameters := { program := [.call 4 .computeAlias 1 (.literal 5#32)] } } (.literal 5#32) = .ok 5#32 :=
  ⟨rfl, rfl, rfl⟩
theorem witness_invariants :
    (withLines [.call 2 .MIX 0 (.name 0), .expect 2 (.name 0)]).Inv ∧
    (withLines [.call 2 .MIX 0 (.name 0), .expect 2 (.name 0)]).Ready ∧
    step (withLines [.expect 0 (.name 0)]) = .next { withLines [.expect 0 (.name 0)] with position := 1 } :=
  ⟨by decide, by decide, rfl⟩
/-- The last line done: the environment's place is at the end of its sequence, which the invariant allows, and no line is left. -/
theorem witness_invariant_at_the_end :
    ({ withLines [.expect 0 (.name 0)] with position := 1 } : State).Inv ∧
    ({ withLines [.expect 0 (.name 0)] with position := 1 } : State).waiting = [] := ⟨by decide, rfl⟩
theorem witness_ReadyStateSteps_expect : (withLines [.expect 0 (.literal 4#32)]).Ready := by decide
theorem witness_ReadyCallsRunToTheEnd :
    (withLines [.call 2 .MIX 0 (.name 0), .call 3 .SWAP 0 (.name 2)]).Ready ∧
    [Line.call 2 .MIX 0 (.name 0), .call 3 .SWAP 0 (.name 2)].all Line.isCall = true := by decide
/-- The least and the greatest bit index, for every statement about a bit below 32, on a decoded operand. -/
theorem witness_OperandWireCarriesItsBit : decode .mixer p2Wires = .ok (.mix 0x12345678#32) ∧ (0 : Nat) < 32 ∧ (31 : Nat) < 32 := by
  decide
theorem witness_MixIsBijective : mixed hardware 0x00000001#32 = 0x241978AC#32 := by decide
theorem witness_ComputeIsBijective : response hardware 0x00000001#32 = 0x069D84C6#32 := by decide
/-- Two calls in both orders and on different instances. -/
theorem witness_CallOrderDoesNotMatter :
    let cs₁ : List LiteralCall := [⟨2, .MIX, 0, 1#32⟩, ⟨3, .COMPUTE, 1, 2#32⟩]
    let cs₂ : List LiteralCall := [⟨3, .COMPUTE, 5, 2#32⟩, ⟨2, .MIX, 5, 1#32⟩]
    (cs₁.map LiteralCall.dst).Nodup ∧ (cs₁.map (LiteralCall.onInstance 0)).Perm (cs₂.map (LiteralCall.onInstance 0)) ∧
    (withLines (cs₁.map LiteralCall.line)).Inv ∧
    (withLines (cs₁.map LiteralCall.line)).names = (withLines (cs₂.map LiteralCall.line)).names := by
  refine ⟨by decide, List.Perm.swap _ _ _, by decide, rfl⟩
theorem witness_ComputeTwiceIsIdentical :
    (withLines (.call 2 .COMPUTE 0 (.literal 1#32) :: [.call 3 .MIX 0 (.name 2)] ++ [.call 4 .computeAlias 1 (.literal 1#32)])).Ready ∧
    [Line.call 3 .MIX 0 (.name 2)].all Line.isCall = true ∧
    ∀ (sp : Spelling) (l : Nat) (op : Operand), Line.call 2 sp l op ∉ [Line.call 3 .MIX 0 (.name 2)] := by
  refine ⟨by decide, by decide, fun sp l op h => ?_⟩
  simp at h
theorem witness_TwoStageCalls :
    (1 : Name) ≠ 2 ∧ (withLines [.call 0 .MIX 0 (.literal 9#32), .call 1 .SWAP 0 (.name 0), .call 2 .COMPUTE 0 (.literal 9#32)]).waiting =
      .call 0 .MIX 0 (.literal 9#32) :: .call 1 .SWAP 0 (.name 0) :: .call 2 .COMPUTE 0 (.literal 9#32) :: [] ∧
    (0 : Name) ≠ 1 ∧ (0 : Name) ≠ 2 := ⟨by decide, rfl, by decide, by decide⟩
theorem witness_SwapCallUndoesTheSwapStage :
    (withLines [.call 0 .COMPUTE 0 (.literal 9#32), .call 1 .SWAP 0 (.name 0)]).waiting =
      .call 0 .COMPUTE 0 (.literal 9#32) :: .call 1 .SWAP 0 (.name 0) :: [] := rfl

end Sys2Proof.Tests
end

section
/-! SUPPORT. The two statements about building a configuration (00_scope.md R9 and R10, log entry 13). -/

namespace Sys2Proof

namespace Config

/-- Building has two answers, the record itself or a refusal. -/
theorem wf_or_build_eq_error (c : Config) : c.WF ∨ ∃ e, c.build = .error e := by
  unfold WF build
  split
  · exact .inr ⟨.width, rfl⟩
  · split
    · exact .inr ⟨.npairs, rfl⟩
    · split
      · exact .inr ⟨.indexRange, rfl⟩
      · split
        · exact .inr ⟨.repeatedIndex, rfl⟩
        · exact .inl rfl

theorem eq_of_build_eq_ok {c d : Config} (h : c.build = .ok d) : d = c := by
  obtain hwf | ⟨e, herror⟩ := c.wf_or_build_eq_error
  · exact Except.ok.inj (h.symm.trans hwf)
  · cases h.symm.trans herror

/-- The converse of `Config.WF.checks`. -/
theorem wf_of_checks {c : Config} (hwidth : c.width = 32) (hcount : c.swapTable.length = c.npairs)
    (hrange : ∀ i ∈ c.indices, i < c.width) (hnodup : c.indices.Nodup) : c.WF := by
  unfold WF build
  rw [if_neg (not_not.mpr hwidth), if_neg (not_not.mpr hcount), if_neg (not_not.mpr hrange), if_neg (not_not.mpr hnodup)]

/-- The range check speaks of the table's indices; the spec speaks of its pairs (00_scope.md R9). -/
theorem forall_indices_lt_iff (c : Config) (n : Nat) :
    (∀ i ∈ c.indices, i < n) ↔ ∀ p ∈ c.swapTable, p.1 < n ∧ p.2 < n := by
  rw [indices, List.forall_mem_flatMap]
  simp

theorem wf_iff (c : Config) :
    c.WF ↔ c.width = 32 ∧ c.swapTable.length = c.npairs ∧ (∀ p ∈ c.swapTable, p.1 < 32 ∧ p.2 < 32) ∧ c.indices.Nodup := by
  rw [← forall_indices_lt_iff]
  constructor
  · intro h
    obtain ⟨hwidth, hcount, -, hnodup⟩ := h.checks
    exact ⟨hwidth, hcount, fun _ => h.index_lt, hnodup⟩
  · rintro ⟨hwidth, hcount, hrange, hnodup⟩
    exact wf_of_checks hwidth hcount (hwidth.symm ▸ hrange) hnodup

theorem build_eq_error_of_not_nodup {c : Config} (h : ¬ c.indices.Nodup) : ∃ e, c.build = .error e :=
  c.wf_or_build_eq_error.resolve_left fun hwf => h hwf.nodup

end Config

namespace Machine

/-- The table lists the spec's sixteen indices, each once, in another order. -/
theorem hardware_indices_perm :
    hardware.indices.Perm [1, 3, 4, 5, 6, 10, 11, 12, 13, 14, 15, 18, 23, 25, 29, 31] := by decide

theorem hardware_wf : hardware.WF := (Config.wf_iff hardware).mpr (by decide)

end Machine

/-- Settles O11: the table is the listed indices rearranged, and a configuration with a repeated index fails the last of the
four checks, if not an earlier one. -/
theorem swapTableInvariant : Obligations.SwapTableInvariant := by
  have hperm := Machine.hardware_indices_perm
  exact ⟨Machine.hardware_wf.nodup, hperm.length_eq, fun _ => hperm.mem_iff, Machine.hardware_wf,
    fun _ => Config.build_eq_error_of_not_nodup⟩

/-- Settles O12: the range check, which compares with the width, is the spec's bound because the width is 32. -/
theorem buildAcceptsExactlyTheChecks : Obligations.BuildAcceptsExactlyTheChecks :=
  fun c => ⟨c.wf_iff, fun _ => Config.eq_of_build_eq_ok⟩

end Sys2Proof
end

section
/-! SUPPORT. Wires that are no operand, and the lowest wire that carries no bit (10_state.md R16, R22; log entry 7). -/

namespace Sys2Proof

theorem natOfWires_cons_of_error {w : Wire} {ws : List Wire} {k : Nat} {e : DecodeError} (hw : w.defined = true)
    (h : natOfWires (k + 1) ws = .error e) : natOfWires k (w :: ws) = .error e := by
  cases w with
  | zero => simp only [natOfWires, h, Except.map]
  | one => simp only [natOfWires, h, Except.map]
  | undriven => cases hw
  | unknown => cases hw

/-- Wires that carry bits leave the refusal to the wires after them. -/
theorem natOfWires_append_of_error {ws : List Wire} {e : DecodeError} :
    ∀ {low : List Wire} {k : Nat}, low.all Wire.defined = true → natOfWires (k + low.length) ws = .error e →
      natOfWires k (low ++ ws) = .error e
  | [], _, _, h => h
  | w :: low, k, hlow, h => by
    rw [List.all_cons, Bool.and_eq_true] at hlow
    obtain ⟨hw, hlow⟩ := hlow
    rw [List.length_cons, ← Nat.add_assoc, Nat.add_right_comm] at h
    exact natOfWires_cons_of_error hw (natOfWires_append_of_error hlow h)

theorem wordOfWires_eq_error_of_length {ws : List Wire} (h : ws.length ≠ 32) :
    wordOfWires ws = .error (.portWidth ws.length) :=
  if_neg h

theorem wordOfWires_eq_error_of_natOfWires {ws : List Wire} {e : DecodeError} (hlen : ws.length = 32)
    (h : natOfWires 0 ws = .error e) : wordOfWires ws = .error e := by
  rw [wordOfWires, if_pos hlen, h]
  rfl

theorem decode_eq_error {ws : List Wire} {e : DecodeError} (h : wordOfWires ws = .error e) (u : UnitId) :
    decode u ws = .error e := by
  rw [decode, h]
  rfl

/-- What is wrong with the wires of an operand port: there are not 32 of them, or one that carries no bit stands above wires
that all do. -/
def UndefinedWires (ws : List Wire) (e : DecodeError) : Prop :=
  (ws.length ≠ 32 ∧ e = .portWidth ws.length) ∨
    (ws.length = 32 ∧ ∃ low high : List Wire, low.all Wire.defined = true ∧
      (ws = low ++ .undriven :: high ∧ e = .undriven low.length ∨ ws = low ++ .unknown :: high ∧ e = .unknown low.length))

/-- The refusal of undefined wires names what is wrong with them. -/
theorem UndefinedWires.wordOfWires_eq_error {ws : List Wire} {e : DecodeError} (h : UndefinedWires ws e) :
    wordOfWires ws = .error e := by
  obtain ⟨hlen, rfl⟩ | ⟨hlen, low, high, hlow, hwire⟩ := h
  · exact wordOfWires_eq_error_of_length hlen
  · obtain ⟨rfl, rfl⟩ | ⟨rfl, rfl⟩ := hwire <;>
      exact wordOfWires_eq_error_of_natOfWires hlen (natOfWires_append_of_error hlow (by rw [Nat.zero_add, natOfWires]))

/-- Wires of which one carries no bit, cut at the lowest such wire. -/
theorem exists_lowest_undefined {ws : List Wire} (h : ws.all Wire.defined = false) :
    ∃ low w high, ws = low ++ w :: high ∧ w.defined = false ∧ low.all Wire.defined = true := by
  have hfind : (ws.find? fun w => !w.defined).isSome := by simpa using h
  obtain ⟨w, hw⟩ := Option.isSome_iff_exists.mp hfind
  obtain ⟨hw, low, high, hws, hlow⟩ := List.find?_eq_some_iff_append.mp hw
  exact ⟨low, w, high, hws, by simpa using hw, by simpa using hlow⟩

/-- Wires that are not 32 bits have something wrong with them. -/
theorem exists_undefined_of_not_wf {ws : List Wire} (h : wiresWf ws = false) : ∃ e, UndefinedWires ws e := by
  by_cases hlen : ws.length = 32
  · have hall : ws.all Wire.defined = false := by simpa only [wiresWf, hlen, BEq.rfl, Bool.true_and] using h
    obtain ⟨low, w, high, hws, hw, hlow⟩ := exists_lowest_undefined hall
    cases w with
    | zero => cases hw
    | one => cases hw
    | undriven => exact ⟨.undriven low.length, .inr ⟨hlen, low, high, hlow, .inl ⟨hws, rfl⟩⟩⟩
    | unknown => exact ⟨.unknown low.length, .inr ⟨hlen, low, high, hlow, .inr ⟨hws, rfl⟩⟩⟩
  · exact ⟨.portWidth ws.length, .inl ⟨hlen, rfl⟩⟩

end Sys2Proof
end

section
/-! SUPPORT. What a step does, by the line that waits: what it runs, and each reason for which it is refused
(10_state.md R15, R22; 30_encoding.md R50; log entries 4, 7, 8, 9). -/

namespace Sys2Proof.Machine

theorem operandWires_of_unbound {s : State} {n : Name} (h : s.value n = none) :
    operandWires s (.name n) = .error (.unboundName n) := by
  rw [operandWires, h]

theorem operandValue_of_operandWires_error {s : State} {op : Operand} {r : Refusal} (h : operandWires s op = .error r) :
    operandValue s op = .error r := by
  rw [operandValue, h]

theorem operandValue_of_wordOfWires_error {s : State} {op : Operand} {ws : List Wire} {e : DecodeError}
    (hws : operandWires s op = .ok ws) (h : wordOfWires ws = .error e) :
    operandValue s op = .error (.undefinedOperand e) := by
  simp only [operandValue, hws, h]

theorem step_of_fetch_error {s : State} {r : Refusal} (h : fetch s = .error r) : step s = .refused r := by
  rw [step, h]

theorem step_of_fetch_call {s s' : State} {i : Instr} (h : fetch s = .ok (.call i s')) : step s = exec i s' := by
  rw [step, h]

theorem step_of_waiting_nil {s : State} (h : s.waiting = []) : step s = .refused .noCall :=
  step_of_fetch_error (by rw [fetch, h])

section CallLine

variable {s : State} {dst : Name} {sp : Spelling} {k : Nat} {op : Operand} {rest : List Line}
variable (hline : s.waiting = .call dst sp k op :: rest)

include hline

theorem fetch_of_call : fetch s = fetchCall dst sp.unit op s := by rw [fetch, hline]

/-- A call line whose operand drives wires that its unit decodes is that call, made from the state turned to it. -/
theorem step_of_call {ws : List Wire} {i : Instr} (hws : operandWires s op = .ok ws) (hi : decode sp.unit ws = .ok i) :
    step s = exec i (beginCall dst s) :=
  step_of_fetch_call ((fetch_of_call hline).trans (fetchCall_eq_ok.mpr ⟨ws, i, hws, hi, rfl⟩))

theorem step_of_call_operand_error {r : Refusal} (h : operandWires s op = .error r) : step s = .refused r :=
  step_of_fetch_error (by rw [fetch_of_call hline, fetchCall, h])

theorem step_of_call_decode_error {ws : List Wire} {e : DecodeError} (hws : operandWires s op = .ok ws)
    (h : decode sp.unit ws = .error e) : step s = .refused (.undefinedOperand e) :=
  step_of_fetch_error (by simp only [fetch_of_call hline, fetchCall, hws, h])

end CallLine

section ExpectLine

variable {s : State} {n : Name} {op : Operand} {rest : List Line} (hline : s.waiting = .expect n op :: rest)

include hline

theorem fetch_of_expect : fetch s = fetchExpect n op s := by rw [fetch, hline]

theorem step_of_expect_unbound (h : s.value n = none) : step s = .refused (.unboundName n) :=
  step_of_fetch_error (by rw [fetch_of_expect hline, fetchExpect, h])

theorem step_of_expect_operand_error {v : Word} {r : Refusal} (hv : s.value n = some v)
    (h : operandValue s op = .error r) : step s = .refused r :=
  step_of_fetch_error (by simp only [fetch_of_expect hline, fetchExpect, hv, h])

end ExpectLine

end Sys2Proof.Machine
end

section
/-! SUPPORT. The operations on the state keep the invariant, and what a call leaves unchanged. -/

namespace Sys2Proof.Machine

theorem deliver_inv (v : Word) {s : State} (h : s.Inv) : (deliver v s).Inv := by
  obtain ⟨hnames, hposition⟩ := h
  exact ⟨bindName_namesWf s.receiver v s.names hnames, hposition⟩

/-- Passing a line that waits does not go beyond the end of the sequence. -/
theorem passLine_inv {s : State} {l : Line} {rest : List Line} (hline : s.waiting = l :: rest) (h : s.Inv) :
    (passLine s).Inv := by
  obtain ⟨hnames, -⟩ := h
  have hlt : s.position < s.parameters.program.length := position_lt_of_waiting s hline
  exact ⟨hnames, hlt⟩

/-- The receiver plays no part in the invariant. -/
theorem beginCall_inv (d : Name) {s : State} {l : Line} {rest : List Line} (hline : s.waiting = l :: rest) (h : s.Inv) :
    (beginCall d s).Inv :=
  passLine_inv hline h

/-- All a call can do. -/
theorem eq_deliver_of_exec {i : Instr} {s t : State} (h : exec i s = .next t) : t = deliver (result hardware i) s := by
  rw [exec_eq_next] at h
  exact (Host.Outcome.next.inj h).symm

@[simp] theorem flagsWritten_eq_nil (i : Instr) : flagsWritten i = [] := by cases i <;> rfl

theorem onPort_operandPort (c : Config) (i : Instr) : onPort c i i.unit.operandPort = some i.operand := by cases i <;> rfl

theorem onPort_resultPort (c : Config) (i : Instr) : onPort c i i.unit.resultPort = some (result c i) := by cases i <;> rfl

end Sys2Proof.Machine
end

section
/-! SUPPORT. The statements about the state, the lines and the ports (10_state.md; log entries 3, 4, 5, 7, 8, 9). -/

namespace Sys2Proof

open Machine

/-- Settles O53: each of the two things a step can be, a call line run or an EXPECT line passed, has a line to do, and is made
of operations that keep the sequence and the invariant. -/
theorem stepKeepsNamesCanonical : Obligations.StepKeepsNamesCanonical := by
  intro s t hstep
  obtain ⟨dst, sp, k, op, rest, ws, i, hline, -, -, rfl⟩ | ⟨n, op, rest, v, hline, -, -, rfl⟩ := step_cases hstep
  · exact ⟨rfl, rfl, position_lt_of_waiting s hline, fun hinv => deliver_inv _ (beginCall_inv dst hline hinv)⟩
  · exact ⟨rfl, rfl, position_lt_of_waiting s hline, passLine_inv hline⟩

/-- Settles O5: the word on the wires is what a unit decodes and what an EXPECT line compares, and there is none. -/
theorem undefinedOperandIsRefused : Obligations.UndefinedOperandIsRefused := by
  intro s ws rest hwf
  obtain ⟨e, hundefined⟩ := exists_undefined_of_not_wf hwf
  have hword := hundefined.wordOfWires_eq_error
  refine ⟨fun u => ⟨e, decode_eq_error hword u⟩, fun dst sp k hline => ⟨e, ?_⟩, fun n v hv hline => ⟨e, ?_⟩⟩
  · exact step_of_call_decode_error hline rfl (decode_eq_error hword sp.unit)
  · exact step_of_expect_operand_error hline hv (operandValue_of_wordOfWires_error rfl hword)

/-- Settles O6: wires that carry bits are passed over until the lowest one that carries none, which the refusal names. -/
theorem undefinedOperandIsNamed : Obligations.UndefinedOperandIsNamed := by
  intro s ws rest e dst sp k hundefined hline
  have hword : wordOfWires ws = .error e := UndefinedWires.wordOfWires_eq_error hundefined
  exact step_of_call_decode_error hline rfl (decode_eq_error hword sp.unit)

/-- Settles O43: all a call does is deliver its result. -/
theorem callChangesOnlyTheReceivingName : Obligations.CallChangesOnlyTheReceivingName := by
  intro i s t hexec
  obtain rfl := eq_deliver_of_exec hexec
  exact ⟨rfl, rfl, rfl, rfl, flagsWritten_eq_nil i, value_deliver_self _ s, fun _ hn => value_deliver_ne _ s hn⟩

/-- Settles O8: by the units, the ports and the operations, one by one. -/
theorem portsCarryOperandAndResult : Obligations.PortsCarryOperandAndResult := by
  refine ⟨fun u => ?_, fun p => ?_, fun c i => ⟨onPort_operandPort c i, onPort_resultPort c i⟩⟩
  · cases u <;> decide
  · cases p <;> decide

/-- Settles O46: the state the call runs from is the one turned to its line. -/
theorem stepRunsTheDecodedCall : Obligations.StepRunsTheDecodedCall :=
  fun _ _ _ _ _ _ _ _ hline hws hi => step_of_call hline hws hi

/-- Settles O50: one clause for each place where a call or a name can be missing. -/
theorem noCallIsRefused : Obligations.NoCallIsRefused := by
  refine fun s => ⟨step_of_waiting_nil, fun dst n sp k rest hline hn => ?_, fun n op rest => step_of_expect_unbound,
    fun n m v rest hline hv hm => ?_⟩
  · exact step_of_call_operand_error hline (operandWires_of_unbound hn)
  · exact step_of_expect_operand_error hline hv (operandValue_of_operandWires_error (operandWires_of_unbound hm))

/-- Settles O51: a structure without fields has one value, and the other clauses are reset's own fields. -/
theorem resetLeavesNothingStored : Obligations.ResetLeavesNothingStored :=
  ⟨fun _ _ => rfl, rfl, rfl, rfl, rfl⟩

end Sys2Proof
end

section
/-! SUPPORT. The wires of a word decode to the word (00_scope.md R12; 30_encoding.md R39). -/

namespace Sys2Proof

theorem natOfWires_ofBool_cons (k : Nat) (b : Bool) (ws : List Wire) :
    natOfWires k (Wire.ofBool b :: ws) = (natOfWires (k + 1) ws).map fun n => b.toNat + 2 * n := by
  cases b with
  | false => simp [Wire.ofBool, natOfWires]
  | true => simp [Wire.ofBool, natOfWires, Nat.add_comm 1]

theorem natOfWires_wiresOfNat : ∀ n v k : Nat, natOfWires k (wiresOfNat n v) = .ok (v % 2 ^ n)
  | 0, v, _ => by rw [wiresOfNat, natOfWires, pow_zero, Nat.mod_one]
  | n + 1, v, k => by
    have hbit : (v % 2 == 1).toNat = v % 2 := by
      rcases Nat.mod_two_eq_zero_or_one v with h | h <;> rw [h] <;> rfl
    rw [wiresOfNat, natOfWires_ofBool_cons, natOfWires_wiresOfNat n, hbit, pow_succ', Nat.mod_mul]
    rfl

theorem wordOfWires_wiresOfWord (v : Word) : wordOfWires (wiresOfWord v) = .ok v := by
  rw [wordOfWires, wiresOfWord, if_pos (wiresOfNat_length ..), natOfWires_wiresOfNat, Nat.mod_eq_of_lt v.isLt, Except.map,
    BitVec.ofNat_toNat, BitVec.setWidth_eq]

theorem decode_wiresOfWord (u : UnitId) (v : Word) : decode u (wiresOfWord v) = .ok (u.call v) := by
  rw [decode, wordOfWires_wiresOfWord]
  rfl

end Sys2Proof
end

section
/-! SUPPORT. Taking a result again, and taking many results: the order in which different names take theirs leaves no mark on
what is bound (20_memory.md R29, R32). -/

namespace Sys2Proof.Machine

/-- Also of names that are not in canonical form: binding puts the name before the first greater one or in place of itself,
and finds it there again. -/
theorem bindName_bindName_self (n : Name) (v : Word) : ∀ l, bindName n v (bindName n v l) = bindName n v l
  | [] => by simp [bindName]
  | (m, w) :: rest => by
    rcases lt_trichotomy n m with h | rfl | h
    · simp [bindName, h]
    · simp [bindName]
    · simp [bindName, h.not_gt, h.ne', bindName_bindName_self n v rest]

theorem deliver_deliver (v : Word) (s : State) : deliver v (deliver v s) = deliver v s := by
  rw [deliver, deliver_receiver, deliver_names, bindName_bindName_self]
  rfl

/-- The names after each of a list of names, the first one first, has been bound to its result. -/
def bindAll : List (Name × Word) → List (Name × Word) → List (Name × Word)
  | [], l => l
  | (n, v) :: bs, l => bindAll bs (bindName n v l)

theorem bindAll_namesWf : ∀ (bs : List (Name × Word)) {l : List (Name × Word)}, NamesWf l → NamesWf (bindAll bs l)
  | [], _, h => h
  | (n, v) :: bs, l, h => bindAll_namesWf bs (bindName_namesWf n v l h)

theorem lookup_bindAll_of_notMem {k : Name} :
    ∀ {bs l : List (Name × Word)}, k ∉ bs.map Prod.fst → lookup k (bindAll bs l) = lookup k l
  | [], _, _ => rfl
  | (n, v) :: bs, l, h => by
    rw [List.map_cons, List.mem_cons, not_or] at h
    obtain ⟨hkn, hk⟩ := h
    rw [bindAll, lookup_bindAll_of_notMem hk, lookup_bindName_ne hkn]

/-- A name that is bound once in the list ends with its result: no later binding is of it. -/
theorem lookup_bindAll_of_mem {k : Name} {w : Word} : ∀ {bs l : List (Name × Word)},
    (bs.map Prod.fst).Nodup → (k, w) ∈ bs → lookup k (bindAll bs l) = some w
  | (n, v) :: bs, l, hnodup, hmem => by
    obtain ⟨hn, hnodup⟩ := List.nodup_cons.mp hnodup
    rcases List.mem_cons.mp hmem with heq | hmem
    · cases heq
      rw [bindAll, lookup_bindAll_of_notMem hn, lookup_bindName_self]
    · rw [bindAll, lookup_bindAll_of_mem hnodup hmem]

/-- The canonical form keeps no trace of the order in which different names were bound. -/
theorem bindAll_eq_of_perm {bs bs' l : List (Name × Word)} (hperm : bs.Perm bs') (hnodup : (bs.map Prod.fst).Nodup)
    (hl : NamesWf l) : bindAll bs l = bindAll bs' l := by
  have hnames : (bs.map Prod.fst).Perm (bs'.map Prod.fst) := hperm.map Prod.fst
  refine names_ext _ _ (bindAll_namesWf bs hl) (bindAll_namesWf bs' hl) fun n => ?_
  by_cases hn : n ∈ bs.map Prod.fst
  · obtain ⟨⟨n, w⟩, hmem, rfl⟩ := List.mem_map.mp hn
    rw [lookup_bindAll_of_mem hnodup hmem, lookup_bindAll_of_mem (hnames.nodup_iff.mp hnodup) (hperm.mem_iff.mp hmem)]
  · rw [lookup_bindAll_of_notMem hn, lookup_bindAll_of_notMem (hnames.mem_iff.not.mp hn)]

end Sys2Proof.Machine
end

section
/-! SUPPORT. Calls of literals: what one does, and the names that a list of them leaves bound. -/

namespace Sys2Proof.Machine

/-- The name that takes the result of a call of a literal, with that result. It does not speak of `inst`. -/
def LiteralCall.binding (c : LiteralCall) : Name × Word := (c.dst, result hardware c.instr)

theorem LiteralCall.map_binding_map_onInstance (k : Nat) (cs : List LiteralCall) :
    (cs.map (LiteralCall.onInstance k)).map LiteralCall.binding = cs.map LiteralCall.binding := by
  rw [List.map_map]
  rfl

theorem LiteralCall.map_fst_map_binding (cs : List LiteralCall) :
    (cs.map LiteralCall.binding).map Prod.fst = cs.map LiteralCall.dst := by
  rw [List.map_map]
  rfl

theorem step_of_literalCall {s : State} {c : LiteralCall} {rest : List Line} (hline : s.waiting = c.line :: rest) :
    step s = .next (deliver (result hardware c.instr) (beginCall c.dst s)) :=
  (step_of_call hline rfl (decode_wiresOfWord c.spelling.unit c.operand)).trans (exec_eq_next _ _)

/-- Calls of literals run to the last, whatever names are bound before. -/
theorem run_literalCalls : ∀ (cs : List LiteralCall) {s : State}, s.waiting = cs.map LiteralCall.line →
    ∃ t, run cs.length s = .next t ∧ t.names = bindAll (cs.map LiteralCall.binding) s.names
  | [], s, _ => ⟨s, run_zero s, rfl⟩
  | c :: cs, s, hwaiting => by
    obtain ⟨t, hrun, hnames⟩ := run_literalCalls cs (s := deliver (result hardware c.instr) (beginCall c.dst s))
      (beginCall_waiting c.dst s hwaiting)
    exact ⟨t, (run_succ_of_next (step_of_literalCall hwaiting) cs.length).trans hrun, hnames⟩

end Sys2Proof.Machine
end

section
/-! SUPPORT. The statements about calls made again and calls in another order (20_memory.md R29, R32). -/

namespace Sys2Proof

open Machine

/-- Settles O45: all a call does is deliver its result, and delivering it a second time changes nothing. -/
theorem callIsIdempotent : Obligations.CallIsIdempotent := by
  intro i s t hexec
  obtain rfl := eq_deliver_of_exec hexec
  rw [exec_eq_next, deliver_deliver]

/-- Settles O58: each run binds the names of its calls to their results; these bindings do not speak of instances, and in
another order they leave the same names. -/
theorem callOrderDoesNotMatter : Obligations.CallOrderDoesNotMatter := by
  refine ⟨fun _ _ => rfl, fun s₁ s₂ cs₁ cs₂ ⟨hcanonical, _⟩ hsame hnodup hperm hw₁ hw₂ => ?_⟩
  obtain ⟨t₁, hrun₁, hnames₁⟩ := run_literalCalls cs₁ hw₁
  obtain ⟨t₂, hrun₂, hnames₂⟩ := run_literalCalls cs₂ hw₂
  have hbindings : (cs₁.map LiteralCall.binding).Perm (cs₂.map LiteralCall.binding) := by
    simpa only [LiteralCall.map_binding_map_onInstance] using hperm.map LiteralCall.binding
  rw [← LiteralCall.map_fst_map_binding] at hnodup
  refine ⟨t₁, t₂, hrun₁, hrun₂, ?_, fun c hc => ?_, fun n hn => ?_⟩
  · rw [hnames₁, hnames₂, hsame, bindAll_eq_of_perm hbindings hnodup hcanonical]
  · rw [State.value, hnames₁, lookup_bindAll_of_mem hnodup (List.mem_map_of_mem hc)]
  · rw [← LiteralCall.map_fst_map_binding] at hn
    rw [State.value, hnames₁, lookup_bindAll_of_notMem hn, State.value]

end Sys2Proof
end

section
/-! SUPPORT. Which wires carry a word: reading wires is the inverse of driving a word's bits (00_scope.md R12;
30_encoding.md R39). -/

namespace Sys2Proof

theorem Wire.exists_ofBool_of_defined {w : Wire} (h : w.defined = true) : ∃ b, w = Wire.ofBool b := by
  cases w with
  | zero => exact ⟨false, rfl⟩
  | one => exact ⟨true, rfl⟩
  | undriven => cases h
  | unknown => cases h

theorem natOfWires_cons_defined {w : Wire} {ws : List Wire} {k n : Nat} (h : natOfWires k (w :: ws) = .ok n) :
    w.defined = true := by
  cases w with
  | zero => rfl
  | one => rfl
  | undriven => cases h
  | unknown => cases h

/-- A number on wires is the bit on the first wire and twice the number on the others. -/
theorem natOfWires_cons_eq_ok {w : Wire} {ws : List Wire} {k n : Nat} (h : natOfWires k (w :: ws) = .ok n) :
    ∃ b m, w = Wire.ofBool b ∧ natOfWires (k + 1) ws = .ok m ∧ n = b.toNat + 2 * m := by
  obtain ⟨b, rfl⟩ := Wire.exists_ofBool_of_defined (natOfWires_cons_defined h)
  rw [natOfWires_ofBool_cons] at h
  rcases hm : natOfWires (k + 1) ws with e | m
  · rw [hm] at h
    cases h
  · rw [hm] at h
    exact ⟨b, m, rfl, rfl, (Except.ok.inj h).symm⟩

theorem wiresOfNat_succ_bit (n m : Nat) (b : Bool) :
    wiresOfNat (n + 1) (b.toNat + 2 * m) = Wire.ofBool b :: wiresOfNat n m := by
  have hlt : b.toNat < 2 := b.toNat_lt
  have hhalf : (b.toNat + 2 * m) / 2 = m := by omega
  have hbit : ((b.toNat + 2 * m) % 2 == 1) = b := by cases b <;> simp
  rw [wiresOfNat, hhalf, hbit]

theorem wiresOfNat_of_natOfWires : ∀ {ws : List Wire} {k n : Nat}, natOfWires k ws = .ok n → wiresOfNat ws.length n = ws
  | [], _, _, _ => rfl
  | w :: ws, k, n, h => by
    obtain ⟨b, m, rfl, hm, rfl⟩ := natOfWires_cons_eq_ok h
    rw [List.length_cons, wiresOfNat_succ_bit, wiresOfNat_of_natOfWires hm]

/-- Driven again and read, the number is below the power of two. -/
theorem lt_of_natOfWires {ws : List Wire} {k n : Nat} (h : natOfWires k ws = .ok n) : n < 2 ^ ws.length := by
  have hread := natOfWires_wiresOfNat ws.length n k
  rw [wiresOfNat_of_natOfWires h, h] at hread
  rw [Except.ok.inj hread]
  exact Nat.mod_lt _ (Nat.two_pow_pos _)

theorem exists_natOfWires_of_defined : ∀ {ws : List Wire} (k : Nat), ws.all Wire.defined = true →
    ∃ n, natOfWires k ws = .ok n
  | [], _, _ => ⟨0, rfl⟩
  | w :: ws, k, h => by
    rw [List.all_cons, Bool.and_eq_true] at h
    obtain ⟨hw, hws⟩ := h
    obtain ⟨b, rfl⟩ := Wire.exists_ofBool_of_defined hw
    obtain ⟨n, hn⟩ := exists_natOfWires_of_defined (k + 1) hws
    exact ⟨b.toNat + 2 * n, by rw [natOfWires_ofBool_cons, hn, Except.map]⟩

theorem wiresOfWord_ofNat_of_natOfWires {ws : List Wire} {k n : Nat} (hlen : ws.length = 32)
    (h : natOfWires k ws = .ok n) : wiresOfWord (BitVec.ofNat 32 n) = ws := by
  have hlt : n < 2 ^ 32 := hlen ▸ lt_of_natOfWires h
  rw [wiresOfWord, BitVec.toNat_ofNat, Nat.mod_eq_of_lt hlt, ← hlen, wiresOfNat_of_natOfWires h]

/-- The wires on which a word can be read are the word's own. -/
theorem wordOfWires_eq_ok {ws : List Wire} {v : Word} : wordOfWires ws = .ok v ↔ ws = wiresOfWord v := by
  constructor
  · intro h
    by_cases hlen : ws.length = 32
    · rw [wordOfWires, if_pos hlen] at h
      rcases hn : natOfWires 0 ws with e | n
      · rw [hn] at h
        cases h
      · rw [hn] at h
        rw [← Except.ok.inj h, wiresOfWord_ofNat_of_natOfWires hlen hn]
    · rw [wordOfWires_eq_error_of_length hlen] at h
      cases h
  · rintro rfl
    exact wordOfWires_wiresOfWord v

/-- What a unit decodes: the wires of a word, as its one operation on the word. -/
theorem decode_eq_ok {u : UnitId} {ws : List Wire} {i : Instr} :
    decode u ws = .ok i ↔ ∃ v, ws = wiresOfWord v ∧ i = u.call v := by
  constructor
  · intro h
    rcases hv : wordOfWires ws with e | v
    · rw [decode_eq_error hv] at h
      cases h
    · obtain rfl := wordOfWires_eq_ok.mp hv
      rw [decode_wiresOfWord] at h
      exact ⟨v, rfl, (Except.ok.inj h).symm⟩
  · rintro ⟨v, rfl, rfl⟩
    exact decode_wiresOfWord u v

theorem wiresWf_iff {ws : List Wire} : wiresWf ws = true ↔ ∃ v, ws = wiresOfWord v := by
  constructor
  · intro h
    rw [wiresWf, Bool.and_eq_true, beq_iff_eq] at h
    obtain ⟨hlen, hdefined⟩ := h
    obtain ⟨n, hn⟩ := exists_natOfWires_of_defined 0 hdefined
    exact ⟨BitVec.ofNat 32 n, (wiresOfWord_ofNat_of_natOfWires hlen hn).symm⟩
  · rintro ⟨v, rfl⟩
    exact wiresOfWord_wf v

theorem getElem?_wiresOfNat : ∀ {n k : Nat} (v : Nat), k < n → (wiresOfNat n v)[k]? = some (Wire.ofBool (v.testBit k))
  | n + 1, 0, v, _ => by rw [wiresOfNat, List.getElem?_cons_zero, Nat.testBit_zero, beq_eq_decide]
  | n + 1, k + 1, v, h => by
    rw [wiresOfNat, List.getElem?_cons_succ, getElem?_wiresOfNat (v / 2) (Nat.lt_of_succ_lt_succ h), Nat.testBit_succ]

theorem getElem?_wiresOfWord (v : Word) {k : Nat} (hk : k < 32) :
    (wiresOfWord v)[k]? = some (Wire.ofBool (v.getLsbD k)) :=
  getElem?_wiresOfNat v.toNat hk

theorem wiresOfWord_length (v : Word) : (wiresOfWord v).length = 32 := wiresOfNat_length 32 v.toNat

@[simp] theorem UnitId.call_unit (u : UnitId) (v : Word) : (u.call v).unit = u := by cases u <;> rfl

@[simp] theorem UnitId.call_operand (u : UnitId) (v : Word) : (u.call v).operand = v := by cases u <;> rfl

theorem Instr.unit_call_operand (i : Instr) : i.unit.call i.operand = i := by cases i <;> rfl

theorem Instr.wf_eq_true (i : Instr) : i.wf = true := by cases i <;> rfl

theorem encode_call (u : UnitId) (v : Word) : encode (u.call v) = (u, wiresOfWord v) := by
  rw [encode, UnitId.call_unit, UnitId.call_operand]

theorem decode_encode (i : Instr) : decode (encode i).1 (encode i).2 = .ok i := by
  rw [encode, decode_wiresOfWord, i.unit_call_operand]

end Sys2Proof
end

section
/-! SUPPORT. The statements about wires, decoding and encoding (30_encoding.md R37 to R39, R48, R50). -/

namespace Sys2Proof

open Machine

/-- Settles O1: a unit decodes the wires of words only, and each as its operation on the word. -/
theorem decodeAndEncodeAgree : Obligations.DecodeAndEncodeAgree := by
  refine ⟨fun i => ⟨i.wf_eq_true, decode_encode i⟩, fun u ws i hdecode => ?_⟩
  obtain ⟨v, rfl, rfl⟩ := decode_eq_ok.mp hdecode
  exact encode_call u v

/-- Settles O2: wires that decode are those of the operand, and they carry its binary digits. -/
theorem operandWireCarriesItsBit : Obligations.OperandWireCarriesItsBit := by
  intro u ws i hdecode
  obtain ⟨v, rfl, rfl⟩ := decode_eq_ok.mp hdecode
  rw [UnitId.call_operand]
  exact ⟨wiresOfWord_length v, fun k hk => getElem?_wiresOfWord v hk⟩

/-- Settles O3: the word is the one whose wires these are. -/
theorem unitDecoderIsConstant : Obligations.UnitDecoderIsConstant := by
  intro ws hwf
  obtain ⟨v, rfl⟩ := wiresWf_iff.mp hwf
  exact ⟨v, decode_wiresOfWord .mixer v, decode_wiresOfWord .swapper v, decode_wiresOfWord .core v⟩

/-- Settles O4: the call delivers its result to the receiver. -/
theorem everyOperandIsLegal : Obligations.EveryOperandIsLegal :=
  fun v u s => ⟨decode_wiresOfWord u v, _, exec_eq_next _ s, value_deliver_self _ s⟩

/-- Settles O7: reading 32 given wires is a computation. -/
theorem specWiresDecode : Obligations.SpecWiresDecode := by
  refine ⟨?_, ?_, ?_, ?_, ?_, ?_⟩ <;> decide

end Sys2Proof
end

section
/-! SUPPORT. SWAPPER for any well-formed configuration, bit by bit: the masks, the contributions and `sigma`
(30_encoding.md R45 to R47; 41_swap.md R60 to R65). -/

namespace Sys2Proof

theorem Config.mem_indices {c : Config} {i : Nat} : i ∈ c.indices ↔ ∃ p ∈ c.swapTable, i = p.1 ∨ i = p.2 := by
  simp [Config.indices]

namespace Machine

theorem getLsbD_pairMask (p : Nat × Nat) (i : Nat) :
    (pairMask p).getLsbD i = (decide (i < 32) && (decide (i = p.1) || decide (i = p.2))) := by
  rw [pairMask, BitVec.getLsbD_or, getLsbD_bit, getLsbD_bit, Bool.and_or_distrib_left]

/-- The OR of the pair masks, taken from the other end of the table (30_encoding.md R46). -/
theorem swapMask_eq_foldr (c : Config) : swapMask c = (c.swapTable.map pairMask).foldr (· ||| ·) 0#32 := by
  rw [← List.foldl_eq_foldr, List.foldl_map, swapMask]

theorem getLsbD_contribution (x : Word) (p : Nat × Nat) (i : Nat) :
    (contribution x p).getLsbD i =
      (decide (i < 32) && decide (i = p.2) && x.getLsbD p.1 || decide (i < 32) && decide (i = p.1) && x.getLsbD p.2) := by
  rw [contribution, BitVec.getLsbD_or, getLsbD_placeBit, getLsbD_placeBit]

/-- In a table without a repeated index the pair that `sigma` finds for an index is the one that lists it. -/
theorem sigmaOf_of_mem {a b : Nat} : ∀ {l : List (Nat × Nat)}, (l.flatMap fun p => [p.1, p.2]).Nodup → (a, b) ∈ l →
    sigmaOf l a = b ∧ sigmaOf l b = a
  | (c, d) :: rest, hnodup, hmem => by
    rw [List.flatMap_cons, List.nodup_append] at hnodup
    obtain ⟨-, hrest, hdisjoint⟩ := hnodup
    rcases List.mem_cons.mp hmem with heq | hmem
    · cases heq
      refine ⟨by simp [sigmaOf], ?_⟩
      by_cases hba : b = a <;> simp [sigmaOf, hba]
    · have hother : ∀ i ∈ [a, b], i ≠ c ∧ i ≠ d := fun i hi => by
        have hi : i ∈ rest.flatMap fun p => [p.1, p.2] := List.mem_flatMap.mpr ⟨(a, b), hmem, hi⟩
        exact ⟨(hdisjoint c (by simp) i hi).symm, (hdisjoint d (by simp) i hi).symm⟩
      obtain ⟨hac, had⟩ := hother a (by simp)
      obtain ⟨hbc, hbd⟩ := hother b (by simp)
      simpa [sigmaOf, hac, had, hbc, hbd] using sigmaOf_of_mem hrest hmem

theorem sigmaOf_of_notMem {i : Nat} : ∀ {l : List (Nat × Nat)}, (∀ p ∈ l, i ≠ p.1 ∧ i ≠ p.2) → sigmaOf l i = i
  | [], _ => rfl
  | (c, d) :: rest, h => by
    obtain ⟨⟨hc, hd⟩, hrest⟩ := List.forall_mem_cons.mp h
    rw [sigmaOf, if_neg hc, if_neg hd, sigmaOf_of_notMem hrest]

theorem sigma_of_notMem {c : Config} {i : Nat} (h : i ∉ c.indices) : sigma c i = i :=
  sigmaOf_of_notMem fun p hp =>
    ⟨fun hi => h (Config.mem_indices.mpr ⟨p, hp, .inl hi⟩), fun hi => h (Config.mem_indices.mpr ⟨p, hp, .inr hi⟩)⟩

section WellFormed

variable {c : Config} (h : c.WF)

include h

theorem sigma_of_mem {p : Nat × Nat} (hp : p ∈ c.swapTable) : sigma c p.1 = p.2 ∧ sigma c p.2 = p.1 :=
  sigmaOf_of_mem h.nodup hp

/-- `sigma` takes an index of the table to one of the table, and back. -/
theorem sigma_of_mem_indices {i : Nat} (hi : i ∈ c.indices) : sigma c i ∈ c.indices ∧ sigma c (sigma c i) = i := by
  obtain ⟨p, hp, rfl | rfl⟩ := Config.mem_indices.mp hi <;> obtain ⟨hfst, hsnd⟩ := sigma_of_mem h hp
  · rw [hfst]
    exact ⟨Config.mem_indices.mpr ⟨p, hp, .inr rfl⟩, hsnd⟩
  · rw [hsnd]
    exact ⟨Config.mem_indices.mpr ⟨p, hp, .inl rfl⟩, hfst⟩

theorem sigma_sigma (i : Nat) : sigma c (sigma c i) = i := by
  by_cases hi : i ∈ c.indices
  · exact (sigma_of_mem_indices h hi).2
  · rw [sigma_of_notMem hi, sigma_of_notMem hi]

theorem sigma_lt {i : Nat} (hi : i < 32) : sigma c i < 32 := by
  by_cases hmem : i ∈ c.indices
  · exact h.index_lt (sigma_of_mem_indices h hmem).1
  · rwa [sigma_of_notMem hmem]

theorem getLsbD_swapMask_eq_mem (i : Nat) : (swapMask c).getLsbD i = decide (i ∈ c.indices) := by
  rw [getLsbD_swapMask, Bool.eq_iff_iff, List.any_eq_true, decide_eq_true_iff, Config.mem_indices]
  refine exists_congr fun p => and_congr_right fun hp => ?_
  have hfst : p.1 < 32 := h.index_lt (Config.mem_indices.mpr ⟨p, hp, .inl rfl⟩)
  have hsnd : p.2 < 32 := h.index_lt (Config.mem_indices.mpr ⟨p, hp, .inr rfl⟩)
  rw [getLsbD_pairMask, Bool.and_eq_true, Bool.or_eq_true, decide_eq_true_iff, decide_eq_true_iff, decide_eq_true_iff]
  omega

theorem getLsbD_keepMask {i : Nat} (hi : i < 32) : (keepMask c).getLsbD i = !decide (i ∈ c.indices) := by
  rw [keepMask, BitVec.getLsbD_not, getLsbD_swapMask_eq_mem h, decide_eq_true hi, Bool.true_and]

/-- A pair's contribution is, at the pair's indices, the operand's bit at `sigma` of the index, and 0 elsewhere. -/
theorem getLsbD_contribution_eq_sigma (x : Word) {p : Nat × Nat} (hp : p ∈ c.swapTable) (i : Nat) :
    (contribution x p).getLsbD i = ((pairMask p).getLsbD i && x.getLsbD (sigma c i)) := by
  obtain ⟨hfst, hsnd⟩ := sigma_of_mem h hp
  rw [getLsbD_contribution, getLsbD_pairMask]
  by_cases h1 : i = p.1
  · subst h1
    rw [hfst]
    by_cases h2 : p.1 = p.2 <;> simp [h2]
  · by_cases h2 : i = p.2
    · subst h2
      simp [hsnd, h1]
    · simp [h1, h2]

/-- The contributions of the table, taken together: an index of a pair takes the bit of the pair's other index. -/
theorem getLsbD_swapped_eq_sigma (x : Word) (i : Nat) :
    (swapped c x).getLsbD i = (decide (i ∈ c.indices) && x.getLsbD (sigma c i)) := by
  rw [getLsbD_swapped, ← getLsbD_swapMask_eq_mem h, getLsbD_swapMask, Bool.eq_iff_iff, Bool.and_eq_true,
    List.any_eq_true, List.any_eq_true, ← exists_and_right]
  refine exists_congr fun p => ?_
  rw [and_assoc]
  refine and_congr_right fun hp => ?_
  rw [getLsbD_contribution_eq_sigma h x hp, Bool.and_eq_true]

theorem getLsbD_swapResult_eq_sigma (x : Word) {i : Nat} (hi : i < 32) :
    (swapResult c x).getLsbD i = x.getLsbD (sigma c i) := by
  rw [getLsbD_swapResult, getLsbD_keepMask h hi, getLsbD_swapped_eq_sigma h]
  by_cases hmem : i ∈ c.indices
  · simp [hmem]
  · simp [hmem, sigma_of_notMem hmem]

end WellFormed

end Machine

end Sys2Proof
end

section
/-! SUPPORT. The statements about the constants, the masks and `sigma` (30_encoding.md R43 to R47). -/

namespace Sys2Proof

open Machine

/-- Settles O16: in a table without repeated indices each index has one partner; SWAPPER's output wire `i` is its input wire
`sigma(i)`, and `sigma` undoes itself. -/
theorem sigmaOfTable : Obligations.SigmaOfTable := by
  refine ⟨fun c h => ⟨fun a b hab => sigma_of_mem h hab, fun i => sigma_of_notMem, fun i => sigma_lt h, sigma_sigma h⟩,
    by decide, fun x i hi => ?_⟩
  rw [getLsbD_swapResult_eq_sigma hardware_wf x (sigma_lt hardware_wf hi), sigma_sigma hardware_wf]

/-- Settles O9: the literal, its binary digits and their number, computed. -/
theorem mulConstBits : Obligations.MulConstBits := by
  refine ⟨rfl, rfl, ?_, ?_, ?_⟩ <;> decide

/-- Settles O10: the literal, its binary digits and their number, computed. -/
theorem xorConstBits : Obligations.XorConstBits := by
  refine ⟨rfl, rfl, ?_, ?_⟩ <;> decide

/-- Settles O13: a pair mask bit by bit for any two indices, and the hardware's eight masks computed. -/
theorem pairMasksAreDisjoint : Obligations.PairMasksAreDisjoint := by
  refine ⟨fun a b _ _ i hi => ?_, by decide, by decide⟩
  rw [getLsbD_pairMask]
  simp [hi]

/-- Settles O14: the two masks are computed once, and the bits, the counts and the sum are those of the two values. -/
theorem swapAndKeepMasks : Obligations.SwapAndKeepMasks := by
  have hswap : swapMask hardware = 0xA284FC7A#32 := by decide
  have hkeep : keepMask hardware = 0x5D7B0385#32 := by decide
  refine ⟨swapMask_eq_foldr hardware, hswap, hswap, rfl, hkeep, hkeep, ?_⟩
  rw [hswap, hkeep]
  decide

end Sys2Proof
end

section
/-! SUPPORT. The operand forms that present a value, and what a line with such operands does (30_encoding.md R50; log
entries 6, 7, 9). -/

namespace Sys2Proof.Machine

/-- An operand that has the value `v` in the environment: the literal, a name bound to it, or its wires. -/
def HasValue (s : State) (op : Operand) (v : Word) : Prop :=
  op = .literal v ∨ (∃ n, op = .name n ∧ s.value n = some v) ∨ op = .wires (wiresOfWord v)

section HasValue

variable {s : State} {op : Operand} {v : Word} (h : HasValue s op v)

include h

theorem HasValue.operandWires_eq : operandWires s op = .ok (wiresOfWord v) := by
  obtain rfl | ⟨n, rfl, hn⟩ | rfl := h
  · rfl
  · rw [operandWires, hn]
  · rfl

theorem HasValue.operandValue_eq : operandValue s op = .ok v := by
  simp only [operandValue, h.operandWires_eq, wordOfWires_wiresOfWord]

end HasValue

theorem exists_value_of_mem {s : State} {n : Name} (h : n ∈ s.names.map Prod.fst) : ∃ v, s.value n = some v :=
  (lookup_isSome_iff n s.names).mpr h

/-- A well-formed operand has a value. -/
theorem exists_hasValue_of_wf {s : State} {op : Operand} (h : op.wf (s.names.map Prod.fst) = true) :
    ∃ v, HasValue s op v := by
  cases op with
  | literal v => exact ⟨v, .inl rfl⟩
  | name n =>
    obtain ⟨v, hv⟩ := exists_value_of_mem (of_decide_eq_true h)
    exact ⟨v, .inr (.inl ⟨n, rfl, hv⟩)⟩
  | wires ws =>
    obtain ⟨v, rfl⟩ := wiresWf_iff.mp h
    exact ⟨v, .inr (.inr rfl)⟩

theorem step_of_call_hasValue {s : State} {dst : Name} {sp : Spelling} {k : Nat} {op : Operand} {rest : List Line} {v : Word}
    (hline : s.waiting = .call dst sp k op :: rest) (hv : HasValue s op v) :
    step s = .next (deliver (result hardware (sp.unit.call v)) (beginCall dst s)) := by
  rw [step_of_call hline hv.operandWires_eq (decode_wiresOfWord sp.unit v), exec_eq_next]

section ExpectLine

variable {s : State} {n : Name} {op : Operand} {rest : List Line} {v w : Word}
variable (hline : s.waiting = .expect n op :: rest) (hv : s.value n = some v) (hw : operandValue s op = .ok w)

include hline hv hw

theorem step_of_expect_eq (h : v = w) : step s = .next (passLine s) := by
  have hfetch : fetchExpect n op s = .ok (.passed (passLine s)) := fetchExpect_eq_ok.mpr ⟨v, hv, h ▸ hw, rfl⟩
  rw [step, fetch_of_expect hline, hfetch]

theorem step_of_expect_ne (h : v ≠ w) : step s = .refused (.expectationFailed n) :=
  step_of_fetch_error (by simp only [fetch_of_expect hline, fetchExpect, hv, hw, if_neg h])

end ExpectLine

/-- The wires of a table word of at most 32 bits are those of the word itself, zeros above it. -/
theorem tableWires_of_le {nbits : Nat} (h : nbits ≤ 32) (w : Nat) :
    tableWires nbits w = wiresOfWord (BitVec.ofNat 32 (w % 2 ^ nbits)) := by
  have hlt : w % 2 ^ nbits < 2 ^ 32 :=
    lt_of_lt_of_le (Nat.mod_lt w (Nat.two_pow_pos nbits)) (Nat.pow_le_pow_right Nat.two_pos h)
  rw [tableWires, Nat.max_eq_left h, wiresOfWord, BitVec.toNat_ofNat, Nat.mod_eq_of_lt hlt]

theorem tableWires_length (nbits w : Nat) : (tableWires nbits w).length = max 32 nbits := wiresOfNat_length _ _

/-- A word of more than 32 bits is no operand. -/
theorem le_of_decode_tableWires {u : UnitId} {nbits w : Nat} {i : Instr} (h : decode u (tableWires nbits w) = .ok i) :
    nbits ≤ 32 := by
  obtain ⟨v, hwires, -⟩ := decode_eq_ok.mp h
  have hlen : max 32 nbits = 32 := by rw [← tableWires_length nbits w, hwires, wiresOfWord_length]
  omega

theorem decodeTableWord_eq_some {nbits w : Nat} {i : Instr} :
    decodeTableWord nbits w = some i ↔ decode tableUnit (tableWires nbits w) = .ok i := by
  rw [decodeTableWord]
  cases decode tableUnit (tableWires nbits w) <;> simp [Except.toOption]

end Sys2Proof.Machine
end

section
/-! SUPPORT. Programs that use a name only after its binding: more names bound do no harm, and a step binds at least those
its line is said to bind (30_encoding.md R50). -/

namespace Sys2Proof

theorem Operand.wf_of_subset {b b' : List Name} (hsub : b ⊆ b') {op : Operand} (h : op.wf b = true) : op.wf b' = true := by
  cases op with
  | literal v => rfl
  | name n => exact decide_eq_true (hsub (of_decide_eq_true h))
  | wires ws => exact h

theorem Line.wf_of_subset {b b' : List Name} (hsub : b ⊆ b') {l : Line} (h : l.wf b = true) : l.wf b' = true := by
  cases l with
  | call dst sp k op => exact Operand.wf_of_subset hsub h
  | expect n op =>
    rw [Line.wf, Bool.and_eq_true, decide_eq_true_iff] at h ⊢
    obtain ⟨hn, hop⟩ := h
    exact ⟨hsub hn, Operand.wf_of_subset hsub hop⟩

theorem Line.binds_subset {b b' : List Name} (hsub : b ⊆ b') (l : Line) : l.binds b ⊆ l.binds b' := by
  cases l with
  | call dst sp k op => exact List.cons_subset_cons dst hsub
  | expect n op => exact hsub

theorem programWf_cons {b : List Name} {l : Line} {rest : List Line} :
    programWf b (l :: rest) = true ↔ l.wf b = true ∧ programWf (l.binds b) rest = true := by
  rw [programWf, Bool.and_eq_true]

theorem programWf_of_subset : ∀ {ls : List Line} {b b' : List Name}, b ⊆ b' → programWf b ls = true →
    programWf b' ls = true
  | [], _, _, _, _ => rfl
  | l :: rest, b, b', hsub, h => by
    obtain ⟨hl, hrest⟩ := programWf_cons.mp h
    exact programWf_cons.mpr ⟨Line.wf_of_subset hsub hl, programWf_of_subset (l.binds_subset hsub) hrest⟩

namespace Machine

/-- After a step at least the names are bound that its line is said to bind. -/
theorem binds_subset_of_step {s t : State} {l : Line} {rest : List Line} (hline : s.waiting = l :: rest)
    (hstep : step s = .next t) : l.binds (s.names.map Prod.fst) ⊆ t.names.map Prod.fst := by
  obtain ⟨dst, sp, k, op, rest', ws, i, hline', -, -, rfl⟩ | ⟨n, op, rest', v, hline', -, -, rfl⟩ := step_cases hstep
  · obtain ⟨rfl, rfl⟩ := List.cons.inj (hline.symm.trans hline')
    exact fun n hn => (mem_names_bindName dst n _ s.names).mpr (List.mem_cons.mp hn)
  · obtain ⟨rfl, rfl⟩ := List.cons.inj (hline.symm.trans hline')
    exact List.Subset.refl _

theorem wf_of_ready {s : State} {l : Line} {rest : List Line} (h : s.Ready) (hline : s.waiting = l :: rest) :
    l.wf (s.names.map Prod.fst) = true ∧ programWf (l.binds (s.names.map Prod.fst)) rest = true := by
  obtain ⟨-, hprogram⟩ := h
  exact programWf_cons.mp (hline ▸ hprogram)

theorem waiting_of_step {s t : State} {l : Line} {rest : List Line} (hline : s.waiting = l :: rest)
    (hstep : step s = .next t) : t.waiting = rest := by
  obtain ⟨l', hline'⟩ := step_waiting hstep
  exact (List.cons.inj (hline.symm.trans hline')).2.symm

end Machine

end Sys2Proof
end

section
/-! SUPPORT. The statements about lines and ready states (30_encoding.md R50; log entries 4, 6, 7, 9). -/

namespace Sys2Proof

open Machine

/-- Settles O55: the step's line is the first of a well-formed program, and the names it binds are bound for the rest. -/
theorem stepKeepsReady : Obligations.StepKeepsReady := by
  intro s t hready hstep
  obtain ⟨l, hline⟩ := step_waiting hstep
  obtain ⟨-, -, -, hinv⟩ := stepKeepsNamesCanonical s t hstep
  obtain ⟨-, hrest⟩ := wf_of_ready hready hline
  obtain ⟨hcanonical, -⟩ := hready
  exact ⟨hinv hcanonical, programWf_of_subset (binds_subset_of_step hline hstep) hrest⟩

/-- Settles O56: a well-formed operand has a value, so that a call line is run, and an EXPECT line has two sides to compare. -/
theorem readyStateSteps : Obligations.ReadyStateSteps := by
  intro s l rest hready hline
  obtain ⟨hl, -⟩ := wf_of_ready hready hline
  cases l with
  | call dst sp k op =>
    obtain ⟨v, hv⟩ := exists_hasValue_of_wf hl
    have hstep := step_of_call_hasValue hline hv
    exact .inl ⟨_, hstep, waiting_of_step hline hstep⟩
  | expect n op =>
    rw [Line.wf, Bool.and_eq_true, decide_eq_true_iff] at hl
    obtain ⟨hn, hop⟩ := hl
    obtain ⟨v, hv⟩ := exists_value_of_mem hn
    obtain ⟨w, hw⟩ := exists_hasValue_of_wf hop
    by_cases hvw : v = w
    · have hstep := step_of_expect_eq hline hv hw.operandValue_eq hvw
      exact .inl ⟨_, hstep, waiting_of_step hline hstep⟩
    · exact .inr ⟨n, op, v, w, rfl, hv, hw.operandValue_eq, hvw, step_of_expect_ne hline hv hw.operandValue_eq hvw⟩

/-- Settles O48: every form of the operand has the value, and every spelling gives the result of its unit's operation. -/
theorem callLineCompletes : Obligations.CallLineCompletes := by
  intro s dst sp k op v rest hline hv
  rw [step_of_call_hasValue hline hv]
  cases sp <;> rfl

/-- Settles O49: the two values are compared, whatever form the operand has. -/
theorem expectLinePassesWhenEqual : Obligations.ExpectLinePassesWhenEqual := by
  intro s n v w op rest hline hv hop
  have hw : operandValue s op = .ok w := HasValue.operandValue_eq hop
  exact ⟨step_of_expect_eq hline hv hw, step_of_expect_ne hline hv hw⟩

/-- Settles O47: a word that decodes has at most 32 bits, its wires are those of its value, and the first line of the new
sequence presents them. -/
theorem fetchWordIsTheNextCall : Obligations.FetchWordIsTheNextCall := by
  intro s nbits w i htable
  have hdecode := decodeTableWord_eq_some.mp htable
  refine ⟨?_, step_of_call (withFetchWord_waiting s nbits w) rfl hdecode⟩
  rw [tableWires_of_le (le_of_decode_tableWires hdecode), decode_wiresOfWord] at hdecode
  exact (Except.ok.inj hdecode).symm

end Sys2Proof
end

section
/-! SUPPORT. MIXER for any configuration: the product as a wrapping multiplication whose operands may be read as any congruent
integers, the exclusive or, the bits a bit of the result depends on, and the inverse (40_mix.md R52 to R58). -/

namespace Sys2Proof.Machine

theorem exactProduct_le (c : Config) (p : Word) : exactProduct c p ≤ (2 ^ 32 - 1) ^ 2 := by
  rw [exactProduct, sq]
  exact Nat.mul_le_mul (Nat.le_sub_one_of_lt p.isLt) (Nat.le_sub_one_of_lt c.mulConst.isLt)

theorem toNat_product (c : Config) (p : Word) : (product c p).toNat = exactProduct c p % 2 ^ 32 :=
  BitVec.toNat_ofNat _ _

theorem toNat_mixed (c : Config) (p : Word) :
    (mixed c p).toNat = exactProduct c p % 2 ^ 32 ^^^ c.xorConst.toNat := by
  rw [mixed, BitVec.toNat_xor, toNat_product]

/-- Whatever stands above the low 32 bits of the product is discarded with the high half. -/
theorem product_eq_trunc32_add (c : Config) (p : Word) (h : Nat) :
    product c p = trunc32 (exactProduct c p % 2 ^ 32 + h * 2 ^ 32) := by
  refine BitVec.eq_of_toNat_eq ?_
  rw [toNat_product, trunc32, BitVec.toNat_ofNat, Nat.add_mul_mod_self_right, Nat.mod_mod]

theorem trunc32_toNat_mul (x : Word) (n : Nat) : trunc32 (x.toNat * n) = x * BitVec.ofNat 32 n := by
  rw [trunc32, BitVec.ofNat_mul, BitVec.ofNat_toNat, BitVec.setWidth_eq]

/-- Any integer congruent to a word modulo `2^32` reads as the word (40_mix.md R55). -/
theorem ofInt_toNat_add_mul_two_pow (x : Word) (s : Int) : BitVec.ofInt 32 ((x.toNat : Int) + s * 2 ^ 32) = x := by
  have hmultiple : BitVec.ofInt 32 (s * 2 ^ 32) = 0#32 := by
    rw [BitVec.ofInt_mul, show BitVec.ofInt 32 (2 ^ 32) = 0#32 by decide, BitVec.mul_zero]
  rw [BitVec.ofInt_add, hmultiple, BitVec.add_zero, BitVec.ofInt_natCast, BitVec.ofNat_toNat, BitVec.setWidth_eq]

/-- Any integers that read as the two operands multiply to the product (40_mix.md R55). -/
theorem product_eq_ofInt {c : Config} {p : Word} {a b : Int} (ha : BitVec.ofInt 32 a = p)
    (hb : BitVec.ofInt 32 b = c.mulConst) : product c p = BitVec.ofInt 32 (a * b) := by
  rw [BitVec.ofInt_mul, ha, hb, product_eq_mul]

theorem product_add (c : Config) (a b : Word) : product c (a + b) = product c a + product c b := by
  simp only [product_eq_mul, BitVec.add_mul]

theorem getLsbD_mixed (c : Config) (p : Word) (i : Nat) :
    (mixed c p).getLsbD i = ((product c p).getLsbD i ^^ c.xorConst.getLsbD i) :=
  BitVec.getLsbD_xor

/-- A carry goes upwards only: words that agree up to bit `i` have products that agree there. -/
theorem getLsbD_mul_congr {p q : Word} {i : Nat} (hi : i < 32) (h : ∀ j, j ≤ i → p.getLsbD j = q.getLsbD j) (m : Word) :
    (p * m).getLsbD i = (q * m).getLsbD i := by
  have hlow : p.setWidth (i + 1) = q.setWidth (i + 1) := BitVec.eq_of_getLsbD_eq fun j hj => by
    simp only [BitVec.getLsbD_setWidth, h j (Nat.le_of_lt_succ hj)]
  have hmul : (p * m).setWidth (i + 1) = (q * m).setWidth (i + 1) := by
    rw [BitVec.setWidth_mul _ _ hi, BitVec.setWidth_mul _ _ hi, hlow]
  simpa only [BitVec.getLsbD_setWidth, Nat.lt_succ_self, decide_true, Bool.true_and]
    using congrArg (fun x => x.getLsbD i) hmul

theorem getLsbD_mixed_congr (c : Config) {p q : Word} {i : Nat} (h : ∀ j, j ≤ i → p.getLsbD j = q.getLsbD j) :
    (mixed c p).getLsbD i = (mixed c q).getLsbD i := by
  by_cases hi : i < 32
  · rw [getLsbD_mixed, getLsbD_mixed, product_eq_mul, product_eq_mul, getLsbD_mul_congr hi h]
  · rw [BitVec.getLsbD_of_ge _ _ (not_lt.mp hi), BitVec.getLsbD_of_ge _ _ (not_lt.mp hi)]

/-- Multiplication by a sum of powers of two is a sum of shifts (40_mix.md R58). -/
theorem mul_sum_twoPow (p : Word) (js : List Nat) :
    p * (js.map (BitVec.twoPow 32)).sum = (js.map fun j => p <<< j).sum := by
  simp only [← List.sum_map_mul_left, BitVec.mul_twoPow_eq_shiftLeft]

/-- The prompt recovered from `MIXED`, `u` being the inverse of the multiplier (40_mix.md R56). -/
def unmixed (c : Config) (u m : Word) : Word := (m ^^^ c.xorConst) * u

section Inverse

variable {c : Config} {u : Word} (hu : c.mulConst * u = 1#32)

include hu

theorem unmixed_mixed (p : Word) : unmixed c u (mixed c p) = p := by
  rw [unmixed, mixed, BitVec.xor_assoc, BitVec.xor_self, BitVec.xor_zero, product_eq_mul, BitVec.mul_assoc, hu,
    BitVec.mul_one]

theorem mixed_unmixed (m : Word) : mixed c (unmixed c u m) = m := by
  rw [mixed, product_eq_mul, unmixed, BitVec.mul_assoc, BitVec.mul_comm u, hu, BitVec.mul_one, BitVec.xor_assoc,
    BitVec.xor_self, BitVec.xor_zero]

theorem mixed_bijective : Function.Bijective (mixed c) :=
  Function.bijective_iff_has_inverse.mpr ⟨unmixed c u, unmixed_mixed hu, mixed_unmixed hu⟩

theorem mixed_eq_iff {p m : Word} : mixed c p = m ↔ p = unmixed c u m := by
  constructor
  · rintro rfl
    exact (unmixed_mixed hu p).symm
  · rintro rfl
    exact mixed_unmixed hu m

end Inverse

/-- An odd number is coprime to `2^32`. -/
theorem exists_mul_eq_one_of_odd {m : Word} (h : m.toNat % 2 = 1) : ∃ u : Word, m * u = 1#32 := by
  have hcoprime : m.toNat.Coprime (2 ^ 32) := (Nat.coprime_two_right.mpr (Nat.odd_iff.mpr h)).pow_right 32
  obtain ⟨n, -, hn⟩ := Nat.exists_mul_mod_eq_one_of_coprime hcoprime (by decide)
  refine ⟨BitVec.ofNat 32 n, BitVec.eq_of_toNat_eq ?_⟩
  rw [← trunc32_toNat_mul, trunc32, BitVec.toNat_ofNat, hn]
  rfl

end Sys2Proof.Machine
end

section
/-! SUPPORT. MIXER of this hardware, in the literals of the spec (40_mix.md R51 to R58). -/

namespace Sys2Proof.Machine

theorem exactProduct_hardware (p : Word) : exactProduct hardware p = p.toNat * 0x4D9B29A1 := rfl

theorem mixed_hardware (p : Word) :
    mixed hardware p = BitVec.ofNat 32 (p.toNat * 0x4D9B29A1) ^^^ 0x6982510D#32 := by
  rw [mixed, product, exactProduct_hardware]
  rfl

theorem toNat_mixed_hardware (p : Word) :
    (mixed hardware p).toNat = p.toNat * 0x4D9B29A1 % 2 ^ 32 ^^^ 0x6982510D := by
  rw [toNat_mixed, exactProduct_hardware]
  rfl

theorem hardware_mulConst_mul_mulInv : hardware.mulConst * mulInv = 1#32 := by decide

/-- The multiplier is the sum of the weights of its fifteen bits (30_encoding.md R43). -/
theorem hardware_mulConst_eq_sum :
    hardware.mulConst = ([0, 5, 7, 8, 11, 13, 16, 17, 19, 20, 23, 24, 26, 27, 30].map (BitVec.twoPow 32)).sum := by decide

/-- Bit 0 of `MIXED` depends on bit 0 of the prompt only, and is the complement of it for the prompts 0 and 1. -/
theorem getLsbD_zero_mixed_hardware (p : Word) : (mixed hardware p).getLsbD 0 = !(p.getLsbD 0) := by
  have hcongr (q : Word) (h : p.getLsbD 0 = q.getLsbD 0) : (mixed hardware p).getLsbD 0 = (mixed hardware q).getLsbD 0 :=
    getLsbD_mixed_congr hardware fun j hj => by rwa [Nat.le_zero.mp hj]
  cases hbit : p.getLsbD 0 with
  | false =>
    rw [hcongr 0#32 hbit]
    decide
  | true =>
    rw [hcongr 1#32 hbit]
    decide

end Sys2Proof.Machine
end

section
/-! SUPPORT. The statements about MIX (40_mix.md R51 to R58). -/

namespace Sys2Proof

open Machine

/-- Settles O18: the bound is that of any two words, and the high half is a multiple of `2^32`. -/
theorem productIsModulo : Obligations.ProductIsModulo := by
  intro prompt
  have hle := exactProduct_le hardware prompt
  exact ⟨exactProduct_hardware prompt, flagsWritten_eq_nil _, hle, hle.trans_lt (by decide), toNat_product hardware prompt,
    product_eq_trunc32_add hardware prompt⟩

/-- Settles O19: an exclusive or inverts exactly the bits at which the constant has a 1, the twelve of O10. -/
theorem mixedIsProductXor : Obligations.MixedIsProductXor := by
  intro prompt i hi
  obtain ⟨hxor, -, hbits, -⟩ := xorConstBits
  rw [← hbits i hi, getLsbD_mixed, ← hxor]
  cases (product hardware prompt).getLsbD i <;> cases hardware.xorConst.getLsbD i <;> decide

/-- Settles O20: the remainder modulo `2^32` of an exclusive or is that of its two sides, and `XOR_CONST` is below `2^32`. -/
theorem maskingOrderDoesNotMatter : Obligations.MaskingOrderDoesNotMatter := by
  intro prompt
  have hconst : 0x6982510D % 2 ^ 32 = 0x6982510D := by decide
  refine ⟨toNat_mixed_hardware prompt, ?_, ?_⟩
  · rw [toNat_mixed_hardware, Nat.xor_mod_two_pow, Nat.mod_mod, hconst]
  · rw [toNat_mixed_hardware, Nat.xor_mod_two_pow, hconst]

/-- Settles O21: the unsigned readings plus multiples of `2^32` and the signed readings are all readings of the operands. -/
theorem productIgnoresSignedness : Obligations.ProductIgnoresSignedness := by
  intro prompt
  refine ⟨fun s t => product_eq_ofInt (ofInt_toNat_add_mul_two_pow prompt s) ?_,
    product_eq_ofInt BitVec.ofInt_toInt BitVec.ofInt_toInt, product_eq_mul hardware prompt⟩
  exact ofInt_toNat_add_mul_two_pow 0x4D9B29A1#32 t

/-- Settles O22: the inverse formula is `unmixed` with `MUL_INV`, and it undoes MIX from both sides. -/
theorem mixIsBijective : Obligations.MixIsBijective := by
  have hinv := hardware_mulConst_mul_mulInv
  have hzero : unmixed hardware mulInv 0x00000000#32 = 0x9FFD67ED#32 := by decide
  refine ⟨rfl, hinv, by decide, fun prompt => ?_, fun _ _ hpq => (mixed_bijective hinv).injective hpq,
    fun m => ⟨unmixed hardware mulInv m, mixed_unmixed hinv m, fun _ => (mixed_eq_iff hinv).mp⟩,
    fun p => ?_, by decide⟩
  · rw [trunc32_toNat_mul]
    exact (unmixed_mixed hinv prompt).symm
  · rw [mixed_eq_iff hinv, hzero]

/-- Settles O23: an odd multiplier has an inverse modulo `2^32`. -/
theorem oddMultiplierMixIsBijective : Obligations.OddMultiplierMixIsBijective := by
  intro c hodd
  obtain ⟨u, hu⟩ := exists_mul_eq_one_of_odd hodd
  exact mixed_bijective hu

/-- Settles O25: MIX of the prompts 0 to 3 refutes both kinds of affinity; the other clauses are laws of the product modulo
`2^32`, the multiplier being the sum of the weights of its bits. -/
theorem mixLinearityFacts : Obligations.MixLinearityFacts := by
  refine ⟨product_add hardware, by decide, ⟨1#32, 1#32, by decide⟩, getLsbD_zero_mixed_hardware,
    fun p q i => getLsbD_mixed_congr hardware, fun p => ?_⟩
  rw [product_eq_mul, hardware_mulConst_eq_sum, mul_sum_twoPow]

/-- Settles O17: a MIX call delivers `MIXED`, in the literals of the spec. -/
theorem mixCallGivesMixed : Obligations.MixCallGivesMixed := by
  refine ⟨fun prompt s => ?_, fun prompt => ⟨decode_wiresOfWord .mixer prompt, onPort_operandPort hardware (.mix prompt), ?_,
    flagsWritten_eq_nil _⟩, by decide, by decide⟩
  · rw [exec_eq_next, result, mixed_hardware]
    rfl
  · rw [← mixed_hardware]
    exact onPort_resultPort hardware (.mix prompt)

/-- Settles O24: the nine rows of the table, computed. -/
theorem mixCornerCases : Obligations.MixCornerCases := by
  unfold Obligations.MixCornerCases
  decide

end Sys2Proof
end

section
/-! SUPPORT. Words that share no position, and words read as sums of powers of two (41_swap.md R62 to R64). -/

namespace Sys2Proof.Machine

theorem and_eq_zero_iff {u v : Word} : u &&& v = 0#32 ↔ ∀ i, ¬(u.getLsbD i = true ∧ v.getLsbD i = true) := by
  constructor
  · intro h i
    rw [← Bool.and_eq_true, ← BitVec.getLsbD_and, h, BitVec.getLsbD_zero]
    exact Bool.false_ne_true
  · intro h
    refine BitVec.eq_of_getLsbD_eq fun i _ => ?_
    rw [BitVec.getLsbD_and, BitVec.getLsbD_zero, Bool.eq_false_iff, ne_eq, Bool.and_eq_true]
    exact h i

theorem xor_eq_or_of_and_eq_zero {u v : Word} (h : u &&& v = 0#32) : u ^^^ v = u ||| v := by
  refine BitVec.eq_of_getLsbD_eq fun i _ => ?_
  have hi := and_eq_zero_iff.mp h i
  rw [BitVec.getLsbD_xor, BitVec.getLsbD_or]
  revert hi
  cases u.getLsbD i <;> cases v.getLsbD i <;> decide

/-- An operation that is OR on words without a common position accumulates such words as OR does. -/
theorem foldl_eq_foldl_or_of_disjoint {op : Word → Word → Word} (hop : ∀ u v, u &&& v = 0#32 → op u v = u ||| v) :
    ∀ {l : List Word} {acc : Word}, (acc :: l).Pairwise (fun u v => u &&& v = 0#32) →
      l.foldl op acc = l.foldl (· ||| ·) acc
  | [], _, _ => rfl
  | w :: l, acc, h => by
    obtain ⟨hacc, hw⟩ := List.pairwise_cons.mp h
    obtain ⟨haccw, haccl⟩ := List.forall_mem_cons.mp hacc
    obtain ⟨hwl, hl⟩ := List.pairwise_cons.mp hw
    have hor : ∀ v ∈ l, (acc ||| w) &&& v = 0#32 := fun v hv => by
      rw [BitVec.and_or_distrib_right, haccl v hv, hwl v hv, BitVec.or_zero]
    rw [List.foldl_cons, List.foldl_cons, hop acc w haccw,
      foldl_eq_foldl_or_of_disjoint hop (List.pairwise_cons.mpr ⟨hor, hl⟩)]

theorem sum_testBit_mul_two_pow (n : Nat) : ∀ k : Nat,
    ((List.range k).map fun i => (n.testBit i).toNat * 2 ^ i).sum = n % 2 ^ k
  | 0 => by rw [List.range_zero, List.map_nil, List.sum_nil, pow_zero, Nat.mod_one]
  | k + 1 => by
    rw [List.range_succ, List.map_append, List.sum_append, sum_testBit_mul_two_pow n k, List.map_singleton,
      List.sum_singleton, Nat.mod_pow_succ, Nat.toNat_testBit, Nat.mul_comm]

/-- A word as an integer is the sum of the weights of its bits (00_scope.md R12). -/
theorem toNat_eq_sum (x : Word) : x.toNat = ((List.range 32).map fun i => (x.getLsbD i).toNat * 2 ^ i).sum :=
  (Nat.mod_eq_of_lt x.isLt).symm.trans (sum_testBit_mul_two_pow x.toNat 32).symm

end Sys2Proof.Machine
end

section
/-! SUPPORT. The contribution of one pair, and the accumulation of the contributions of a table, well formed or not
(41_swap.md R61 to R63, R66). -/

namespace Sys2Proof.Machine

theorem placeBit_eq_ite (x : Word) (src dst : Nat) : placeBit x src dst = if x.getLsbD src then bit dst else 0#32 := by
  rw [placeBit]
  cases x.getLsbD src with
  | false => exact BitVec.zero_shiftLeft dst
  | true => rfl

theorem contribution_eq_ite (x : Word) (p : Nat × Nat) :
    contribution x p =
      (if x.getLsbD p.1 then bit p.2 else 0#32) ||| (if x.getLsbD p.2 then bit p.1 else 0#32) := by
  rw [contribution, placeBit_eq_ite, placeBit_eq_ite]

@[simp] theorem contribution_swap (x : Word) (p : Nat × Nat) : contribution x p.swap = contribution x p :=
  BitVec.or_comm _ _

@[simp] theorem pairMask_swap (p : Nat × Nat) : pairMask p.swap = pairMask p :=
  BitVec.or_comm _ _

/-- A contribution has no position outside its pair's mask. -/
theorem getLsbD_pairMask_of_contribution {x : Word} {p : Nat × Nat} {i : Nat}
    (h : (contribution x p).getLsbD i = true) : (pairMask p).getLsbD i = true := by
  simp only [getLsbD_contribution, Bool.or_eq_true, Bool.and_eq_true, decide_eq_true_iff] at h
  simp only [getLsbD_pairMask, Bool.or_eq_true, Bool.and_eq_true, decide_eq_true_iff]
  obtain ⟨⟨hi, hsnd⟩, -⟩ | ⟨⟨hi, hfst⟩, -⟩ := h
  · exact ⟨hi, .inr hsnd⟩
  · exact ⟨hi, .inl hfst⟩

theorem contribution_and_contribution {p q : Nat × Nat} (h : pairMask p &&& pairMask q = 0#32) (x : Word) :
    contribution x p &&& contribution x q = 0#32 :=
  and_eq_zero_iff.mpr fun i ⟨hp, hq⟩ =>
    and_eq_zero_iff.mp h i ⟨getLsbD_pairMask_of_contribution hp, getLsbD_pairMask_of_contribution hq⟩

theorem getLsbD_swapMask_of_swapped {c : Config} {x : Word} {i : Nat} (h : (swapped c x).getLsbD i = true) :
    (swapMask c).getLsbD i = true := by
  rw [getLsbD_swapped, List.any_eq_true] at h
  rw [getLsbD_swapMask, List.any_eq_true]
  obtain ⟨p, hp, hi⟩ := h
  exact ⟨p, hp, getLsbD_pairMask_of_contribution hi⟩

theorem swapped_and_keepMask (c : Config) (x : Word) : swapped c x &&& keepMask c = 0#32 := by
  refine and_eq_zero_iff.mpr fun i ⟨hswapped, hkeep⟩ => ?_
  rw [keepMask, BitVec.getLsbD_not, getLsbD_swapMask_of_swapped hswapped, Bool.not_true, Bool.and_false] at hkeep
  exact Bool.false_ne_true hkeep

/-- The kept bits and the swapped bits have no position in common. -/
theorem kept_and_swapped (c : Config) (x : Word) : (x &&& keepMask c) &&& swapped c x = 0#32 := by
  rw [BitVec.and_assoc, BitVec.and_comm (keepMask c), swapped_and_keepMask, BitVec.and_zero]

theorem swapResult_and_keepMask (c : Config) (x : Word) : swapResult c x &&& keepMask c = x &&& keepMask c := by
  rw [swapResult, BitVec.and_or_distrib_right, swapped_and_keepMask, BitVec.or_zero, BitVec.and_assoc, BitVec.and_self]

theorem swapped_eq_foldl_map (c : Config) (x : Word) :
    swapped c x = (c.swapTable.map (contribution x)).foldl (· ||| ·) 0#32 := by
  rw [List.foldl_map, swapped]

/-- The accumulation as the pseudocode of 41_swap.md R59 writes it, one bit after the other. -/
theorem swapped_eq_foldl_placeBit (c : Config) (x : Word) :
    swapped c x = c.swapTable.foldl (fun acc p => acc ||| placeBit x p.1 p.2 ||| placeBit x p.2 p.1) 0#32 := by
  simp only [swapped, contribution, BitVec.or_assoc]

section Disjoint

variable {c : Config} (h : (c.swapTable.map pairMask).Pairwise fun m n => m &&& n = 0#32)

include h

theorem pairwise_contributions (x : Word) :
    (c.swapTable.map (contribution x)).Pairwise fun u v => u &&& v = 0#32 := by
  rw [List.pairwise_map] at h ⊢
  exact h.imp fun hpq => contribution_and_contribution hpq x

/-- With disjoint pair masks the contributions may be accumulated by any operation that is OR on disjoint words. -/
theorem swapped_eq_foldl_of_disjoint {op : Word → Word → Word} (hop : ∀ u v, u &&& v = 0#32 → op u v = u ||| v)
    (x : Word) : swapped c x = (c.swapTable.map (contribution x)).foldl op 0#32 := by
  have hzero : ∀ v ∈ c.swapTable.map (contribution x), 0#32 &&& v = 0#32 := fun v _ => BitVec.zero_and
  rw [swapped_eq_foldl_map,
    foldl_eq_foldl_or_of_disjoint hop (List.pairwise_cons.mpr ⟨hzero, pairwise_contributions h x⟩)]

end Disjoint

/-- SWAP reads no more of a table than the pairs' masks and contributions, in any order. -/
theorem swapResult_eq_of_perm {c d : Config} {x : Word}
    (hmasks : (c.swapTable.map pairMask).Perm (d.swapTable.map pairMask))
    (hcontributions : (c.swapTable.map (contribution x)).Perm (d.swapTable.map (contribution x))) :
    swapResult c x = swapResult d x := by
  have hmask : swapMask c = swapMask d := by rw [swapMask_eq_foldr, swapMask_eq_foldr, hmasks.foldr_op_eq]
  have hswapped : swapped c x = swapped d x := by
    rw [swapped_eq_foldl_map, swapped_eq_foldl_map, hcontributions.foldl_op_eq]
  rw [swapResult, swapResult, keepMask, keepMask, hmask, hswapped]

theorem map_eq_of_forall₂_swap {α : Type} {f : Nat × Nat → α} (hf : ∀ p, f p.swap = f p) {t t' : List (Nat × Nat)}
    (h : List.Forall₂ (fun p q => p = q ∨ p = q.swap) t t') : t.map f = t'.map f := by
  induction h with
  | nil => rfl
  | @cons p q t t' hpq _ ih =>
    have hhead : f p = f q := by
      obtain rfl | rfl := hpq
      · rfl
      · exact hf q
    rw [List.map_cons, List.map_cons, hhead, ih]

end Sys2Proof.Machine
end

section
/-! SUPPORT. SWAP of a well-formed configuration as a permutation of bit positions: its inverse, what it commutes with, what
it preserves and what it fixes (41_swap.md R64, R65, R68, R69). -/

namespace Sys2Proof

theorem Config.pair_mem_indices {c : Config} {p : Nat × Nat} (hp : p ∈ c.swapTable) : p.1 ∈ c.indices ∧ p.2 ∈ c.indices :=
  ⟨mem_indices.mpr ⟨p, hp, .inl rfl⟩, mem_indices.mpr ⟨p, hp, .inr rfl⟩⟩

namespace Machine

/-- The difference of the two bits of a pair, at both its positions (41_swap.md R64): where SWAP inverts a bit. -/
def pairDifference (x : Word) (p : Nat × Nat) : Word :=
  ((BitVec.ofBool (x.getLsbD p.1 ^^ x.getLsbD p.2)).setWidth 32 <<< p.1) |||
    ((BitVec.ofBool (x.getLsbD p.1 ^^ x.getLsbD p.2)).setWidth 32 <<< p.2)

/-- The indices that are not above their partner: one of each pair, and every index in no pair. -/
def lowerIndices (c : Config) : Finset Nat := (Finset.range 32).filter fun i => i ≤ sigma c i

theorem mem_lowerIndices {c : Config} {i : Nat} : i ∈ lowerIndices c ↔ i < 32 ∧ i ≤ sigma c i := by
  rw [lowerIndices, Finset.mem_filter, Finset.mem_range]

/-- The bits of a word at the lower indices. -/
def lowerBits (c : Config) (x : Word) (i : lowerIndices c) : Bool := x.getLsbD i

/-- The word with the same bit at both indices of each pair, that of the lower one. -/
def mirrored (c : Config) (f : Nat → Bool) : Word := BitVec.ofFnLE fun i : Fin 32 => f (min i (sigma c i))

theorem getLsbD_mirrored (c : Config) (f : Nat → Bool) {i : Nat} (hi : i < 32) :
    (mirrored c f).getLsbD i = f (min i (sigma c i)) := by
  rw [mirrored, BitVec.getLsbD_ofFnLE, dif_pos hi]

section WellFormed

variable {c : Config} (h : c.WF)

include h

theorem sigma_involutive : Function.Involutive (sigma c) := sigma_sigma h

theorem pair_lt {p : Nat × Nat} (hp : p ∈ c.swapTable) : p.1 < 32 ∧ p.2 < 32 :=
  (Config.pair_mem_indices hp).imp h.index_lt h.index_lt

theorem map_sigma_range_perm : ((List.range 32).map (sigma c)).Perm (List.range 32) := by
  refine (List.perm_ext_iff_of_nodup (List.nodup_range.map (sigma_involutive h).injective) List.nodup_range).mpr fun i => ?_
  rw [List.mem_map, List.mem_range]
  constructor
  · rintro ⟨j, hj, rfl⟩
    exact sigma_lt h (List.mem_range.mp hj)
  · exact fun hi => ⟨sigma c i, List.mem_range.mpr (sigma_lt h hi), sigma_sigma h i⟩

theorem getLsbD_sigma_swapResult (x : Word) {i : Nat} (hi : i < 32) :
    (swapResult c x).getLsbD (sigma c i) = x.getLsbD i := by
  rw [getLsbD_swapResult_eq_sigma h x (sigma_lt h hi), sigma_sigma h]

/-- The result of SWAP is the word that has the operand's bits at the positions `sigma` gives. -/
theorem swapResult_eq_iff {x y : Word} : swapResult c x = y ↔ ∀ i, i < 32 → x.getLsbD (sigma c i) = y.getLsbD i := by
  constructor
  · rintro rfl i hi
    exact (getLsbD_swapResult_eq_sigma h x hi).symm
  · intro hbits
    refine BitVec.eq_of_getLsbD_eq fun i hi => ?_
    rw [getLsbD_swapResult_eq_sigma h x hi, hbits i hi]

theorem toNat_swapResult (x : Word) :
    (swapResult c x).toNat = ((List.range 32).map fun i => (x.getLsbD i).toNat * 2 ^ sigma c i).sum := by
  have hterms : ((List.range 32).map fun i => (x.getLsbD i).toNat * 2 ^ sigma c i) =
      ((List.range 32).map (sigma c)).map fun j => ((swapResult c x).getLsbD j).toNat * 2 ^ j := by
    rw [List.map_map]
    refine List.map_congr_left fun i hi => ?_
    rw [Function.comp_apply, getLsbD_sigma_swapResult h x (List.mem_range.mp hi)]
  rw [hterms, toNat_eq_sum, ((map_sigma_range_perm h).map _).sum_eq]

/-- The differences of a pair are the contribution of the word that tells the operand and its result apart. -/
theorem pairDifference_eq_contribution (x : Word) {p : Nat × Nat} (hp : p ∈ c.swapTable) :
    pairDifference x p = contribution (x ^^^ swapResult c x) p := by
  obtain ⟨hfst, hsnd⟩ := sigma_of_mem h hp
  obtain ⟨hlt₁, hlt₂⟩ := pair_lt h hp
  have hbit₁ : (x ^^^ swapResult c x).getLsbD p.1 = (x.getLsbD p.1 ^^ x.getLsbD p.2) := by
    rw [BitVec.getLsbD_xor, getLsbD_swapResult_eq_sigma h x hlt₁, hfst]
  have hbit₂ : (x ^^^ swapResult c x).getLsbD p.2 = (x.getLsbD p.1 ^^ x.getLsbD p.2) := by
    rw [BitVec.getLsbD_xor, getLsbD_swapResult_eq_sigma h x hlt₂, hsnd, Bool.xor_comm]
  rw [contribution, placeBit, placeBit, hbit₁, hbit₂, BitVec.or_comm, pairDifference]

/-- The form of SWAP without a mask (41_swap.md R64). -/
theorem swapResult_eq_xor_pairDifferences (x : Word) :
    swapResult c x = x ^^^ (c.swapTable.map (pairDifference x)).foldl (· ||| ·) 0#32 := by
  rw [List.map_congr_left fun p hp => pairDifference_eq_contribution h x hp, ← swapped_eq_foldl_map]
  refine (swapResult_eq_iff h).mpr fun i hi => ?_
  rw [BitVec.getLsbD_xor, getLsbD_swapped_eq_sigma h, BitVec.getLsbD_xor, getLsbD_sigma_swapResult h x hi]
  by_cases hmem : i ∈ c.indices
  · rw [decide_eq_true hmem, Bool.true_and, Bool.xor_left_comm, Bool.xor_self, Bool.xor_false]
  · rw [decide_eq_false hmem, Bool.false_and, Bool.xor_false, sigma_of_notMem hmem]

theorem swapResult_involutive : Function.Involutive (swapResult c) := fun x =>
  (swapResult_eq_iff h).mpr fun _ hi => getLsbD_sigma_swapResult h x hi

theorem swapResult_zero : swapResult c 0#32 = 0#32 :=
  (swapResult_eq_iff h).mpr fun _ _ => by rw [BitVec.getLsbD_zero, BitVec.getLsbD_zero]

theorem swapResult_eq_zero_iff {x : Word} : swapResult c x = 0#32 ↔ x = 0#32 :=
  (swapResult_involutive h).injective.eq_iff' (swapResult_zero h)

theorem swapResult_xor (u v : Word) : swapResult c (u ^^^ v) = swapResult c u ^^^ swapResult c v :=
  (swapResult_eq_iff h).mpr fun i hi => by
    simp only [BitVec.getLsbD_xor, getLsbD_swapResult_eq_sigma h _ hi]

theorem swapResult_and (u v : Word) : swapResult c (u &&& v) = swapResult c u &&& swapResult c v :=
  (swapResult_eq_iff h).mpr fun i hi => by
    simp only [BitVec.getLsbD_and, getLsbD_swapResult_eq_sigma h _ hi]

theorem swapResult_or (u v : Word) : swapResult c (u ||| v) = swapResult c u ||| swapResult c v :=
  (swapResult_eq_iff h).mpr fun i hi => by
    simp only [BitVec.getLsbD_or, getLsbD_swapResult_eq_sigma h _ hi]

theorem swapResult_not (u : Word) : swapResult c (~~~u) = ~~~(swapResult c u) :=
  (swapResult_eq_iff h).mpr fun i hi => by
    simp only [BitVec.getLsbD_not, getLsbD_swapResult_eq_sigma h _ hi, hi, sigma_lt h hi]

theorem swapResult_bit (i : Nat) : swapResult c (bit i) = bit (sigma c i) :=
  (swapResult_eq_iff h).mpr fun j hj => by
    have heq : sigma c j = i ↔ j = sigma c i := (sigma_involutive h).eq_iff
    simp only [getLsbD_bit, hj, sigma_lt h hj, heq]

theorem popcount_swapResult (x : Word) : popcount (swapResult c x) = popcount x := by
  calc popcount (swapResult c x)
      = (List.range 32).countP fun i => x.getLsbD (sigma c i) :=
        List.countP_congr fun i hi => by rw [getLsbD_swapResult_eq_sigma h x (List.mem_range.mp hi)]
    _ = ((List.range 32).map (sigma c)).countP fun i => x.getLsbD i := by rw [List.countP_map]; rfl
    _ = popcount x := (map_sigma_range_perm h).countP_eq _

/-- SWAP fixes the words whose two bits are equal in each pair (41_swap.md R68). -/
theorem swapResult_eq_self_iff {x : Word} :
    swapResult c x = x ↔ ∀ p ∈ c.swapTable, x.getLsbD p.1 = x.getLsbD p.2 := by
  rw [swapResult_eq_iff h]
  constructor
  · intro hbits p hp
    obtain ⟨hfst, hsnd⟩ := sigma_of_mem h hp
    rw [← hbits p.1 (pair_lt h hp).1, hfst]
  · intro hpairs i _
    by_cases hi : i ∈ c.indices
    · obtain ⟨p, hp, hip⟩ := Config.mem_indices.mp hi
      obtain ⟨hfst, hsnd⟩ := sigma_of_mem h hp
      obtain rfl | rfl := hip
      · rw [hfst, hpairs p hp]
      · rw [hsnd, hpairs p hp]
    · rw [sigma_of_notMem hi]

theorem swapResult_eq_self_of_and_swapMask {x : Word} (hx : x &&& swapMask c = 0#32) : swapResult c x = x := by
  have hclear : ∀ i ∈ c.indices, x.getLsbD i = false := fun i hi => by
    have hmask : (swapMask c).getLsbD i = true := by rw [getLsbD_swapMask_eq_mem h, decide_eq_true hi]
    exact Bool.eq_false_iff.mpr fun hbit => and_eq_zero_iff.mp hx i ⟨hbit, hmask⟩
  refine (swapResult_eq_self_iff h).mpr fun p hp => ?_
  obtain ⟨hfst, hsnd⟩ := Config.pair_mem_indices hp
  rw [hclear p.1 hfst, hclear p.2 hsnd]

theorem swapResult_mirrored (f : Nat → Bool) : swapResult c (mirrored c f) = mirrored c f :=
  (swapResult_eq_iff h).mpr fun i hi => by
    rw [getLsbD_mirrored c f (sigma_lt h hi), getLsbD_mirrored c f hi, sigma_sigma h, min_comm]

/-- A fixed word is known by its bits at the lower indices, and these may be any bits. -/
theorem lowerBits_bijective : Function.Bijective fun x : { x : Word // swapResult c x = x } => lowerBits c x.1 := by
  constructor
  · rintro ⟨x, hx⟩ ⟨y, hy⟩ hxy
    have hlower : ∀ i, i < 32 → i ≤ sigma c i → x.getLsbD i = y.getLsbD i := fun i hi hle =>
      congrFun hxy ⟨i, mem_lowerIndices.mpr ⟨hi, hle⟩⟩
    refine Subtype.ext (BitVec.eq_of_getLsbD_eq fun i hi => ?_)
    rcases le_total i (sigma c i) with hle | hle
    · exact hlower i hi hle
    · rw [← (swapResult_eq_iff h).mp hx i hi, ← (swapResult_eq_iff h).mp hy i hi]
      exact hlower (sigma c i) (sigma_lt h hi) (by rwa [sigma_sigma h])
  · intro g
    refine ⟨⟨mirrored c (Function.extend Subtype.val g fun _ => false), swapResult_mirrored h _⟩, funext fun i => ?_⟩
    obtain ⟨hi, hle⟩ := mem_lowerIndices.mp i.2
    change (mirrored c _).getLsbD i = g i
    rw [getLsbD_mirrored c _ hi, min_eq_left hle, Subtype.val_injective.extend_apply]

theorem card_fixed : Nat.card { x : Word // swapResult c x = x } = 2 ^ (lowerIndices c).card := by
  rw [Nat.card_eq_of_bijective _ (lowerBits_bijective h), Nat.card_fun, Nat.card_eq_fintype_card, Nat.card_eq_fintype_card,
    Fintype.card_bool, Fintype.card_coe]

end WellFormed

end Machine

end Sys2Proof
end

section
/-! SUPPORT. SWAPPER of this hardware, in the literals of the spec (41_swap.md R59, R60, R62). -/

namespace Sys2Proof.Machine

theorem swapMask_hardware : swapMask hardware = 0xA284FC7A#32 := by
  obtain ⟨-, hswap, -⟩ := swapAndKeepMasks
  exact hswap

theorem keepMask_hardware : keepMask hardware = 0x5D7B0385#32 := by
  obtain ⟨-, -, -, -, hkeep, -⟩ := swapAndKeepMasks
  exact hkeep

theorem swapResult_hardware (x : Word) : swapResult hardware x = (x &&& 0x5D7B0385#32) ||| swapped hardware x := by
  rw [swapResult, keepMask_hardware]

theorem pairwise_pairMasks_hardware : (hardware.swapTable.map pairMask).Pairwise fun m n => m &&& n = 0#32 := by
  obtain ⟨-, -, hpairwise⟩ := pairMasksAreDisjoint
  exact hpairwise

theorem card_lowerIndices_hardware : (lowerIndices hardware).card = 24 := rfl

/-- The entries of the spec's table of `sigma` (30_encoding.md R47). -/
theorem getElem_sigmaTable {i : Nat} (hi : i < 32) :
    [0, 3, 2, 1, 31, 25, 14, 7, 8, 9, 11, 10, 23, 15, 6, 13, 16, 17, 29, 19, 20, 21, 22, 12, 24, 5, 26, 27, 28, 18, 30, 4][i] =
      sigma hardware i := by
  obtain ⟨-, htable, -⟩ := sigmaOfTable
  rw [List.getElem_of_eq htable.symm hi, List.getElem_map, List.getElem_range]

end Sys2Proof.Machine
end

section
/-! SUPPORT. The statements about SWAP (41_swap.md R59 to R70). -/

namespace Sys2Proof

open Machine

/-- Settles O15: the keep mask is the complement of the OR of the pair masks, which has the table's indices. -/
theorem keepMaskOfTable : Obligations.KeepMaskOfTable := by
  refine ⟨fun c h i hi => ?_, fun c d htable => ?_, keepMask_hardware⟩
  · rw [getLsbD_keepMask h hi, Bool.not_eq_false', decide_eq_true_iff]
  · rw [keepMask, keepMask, swapMask, swapMask, htable]

/-- Settles O26: the call delivers `S(x)`, whose accumulation takes the two bits of each pair one after the other. -/
theorem swapCallExchangesPairs : Obligations.SwapCallExchangesPairs := by
  refine ⟨fun x s => ⟨swapResult hardware x, exec_eq_next _ s, decode_wiresOfWord .swapper x,
    onPort_operandPort hardware (.swap x), onPort_resultPort hardware (.swap x), flagsWritten_eq_nil _, ?_,
    fun i hi => ?_⟩, by decide⟩
  · rw [swapResult_hardware, swapped_eq_foldl_placeBit]
    rfl
  · rw [getElem_sigmaTable hi, getLsbD_sigma_swapResult hardware_wf x hi]

/-- Settles O27: the contribution is the OR of two bits, each placed where the other stood. -/
theorem contributionSwapsTwoBits : Obligations.ContributionSwapsTwoBits := by
  intro x a b ha hb hab
  have hcases := contribution_eq_ite x (a, b)
  refine ⟨?_, ?_, fun i hia hib => ?_, fun hxa hxb => ?_, fun hxa hxb => ?_, fun hxa hxb => ?_, fun hxa hxb => ?_⟩
  · rw [getLsbD_contribution]
    simp [hb, hab.symm]
  · rw [getLsbD_contribution]
    simp [ha, hab]
  · rw [getLsbD_contribution]
    simp [hia, hib]
  · simp [hcases, hxa, hxb]
  · simp [hcases, hxa, hxb, bit]
  · simp [hcases, hxa, hxb, bit]
  · simp [hcases, hxa, hxb, bit, BitVec.or_comm]

/-- Settles O28: the pair masks have no position in common, nor have the contributions within them, so that a sum has no
carry and an exclusive or loses nothing. -/
theorem accumulationIsDisjoint : Obligations.AccumulationIsDisjoint := by
  intro x
  have hmasks := pairwise_pairMasks_hardware
  refine ⟨swapped_eq_foldl_map hardware x, swapped_eq_foldl_of_disjoint hmasks BitVec.add_eq_or_of_and_eq_zero x,
    swapped_eq_foldl_of_disjoint hmasks (fun _ _ => xor_eq_or_of_and_eq_zero) x, pairwise_contributions hmasks x, ?_⟩
  rw [← keepMask_hardware, swapped_and_keepMask]

/-- Settles O29: the swapped bits have no position in the keep mask. -/
theorem combineIsDisjoint : Obligations.CombineIsDisjoint := by
  intro x
  have hdisjoint : (x &&& 0x5D7B0385#32) &&& swapped hardware x = 0#32 := by
    rw [← keepMask_hardware, kept_and_swapped]
  refine ⟨swapResult_hardware x, hdisjoint, ?_, ?_⟩
  · rw [BitVec.add_eq_or_of_and_eq_zero _ _ hdisjoint, swapResult_hardware]
  · rw [xor_eq_or_of_and_eq_zero hdisjoint, swapResult_hardware]

/-- Settles O30: bit `i` of the step form is the operand's bit `sigma(i)`, and `sigma` permutes the 32 positions. -/
theorem stepFormIsPermutationForm : Obligations.StepFormIsPermutationForm :=
  fun _ h x => ⟨fun _ => getLsbD_sigma_swapResult h x, fun _ => getLsbD_swapResult_eq_sigma h x, toNat_swapResult h x,
    swapResult_eq_xor_pairDifferences h x⟩

/-- Settles O31: `sigma` undoes itself. -/
theorem swapIsInvolution : Obligations.SwapIsInvolution :=
  fun _ h => ⟨swapResult_involutive h, (swapResult_involutive h).bijective⟩

/-- Settles O32: OR is commutative and associative, in the accumulation and within each pair. -/
theorem pairOrderIsNotObservable : Obligations.PairOrderIsNotObservable := by
  refine fun c x => ⟨fun table hperm => ?_, fun table hswaps => ?_, fun a b => contribution_swap x (b, a)⟩
  · exact swapResult_eq_of_perm (hperm.map pairMask) (hperm.map (contribution x))
  · exact swapResult_eq_of_perm (.of_eq (map_eq_of_forall₂_swap pairMask_swap hswaps))
      (.of_eq (map_eq_of_forall₂_swap (contribution_swap x) hswaps))

/-- Settles O33: the swapped bits are outside the keep mask, and `sigma` fixes each listed position. -/
theorem untouchedBitsPass : Obligations.UntouchedBitsPass := by
  refine fun x => ⟨?_, fun i hi => ?_⟩
  · rw [← keepMask_hardware, swapResult_and_keepMask]
  · have hfixed : ∀ j ∈ [0, 2, 7, 8, 9, 16, 17, 19, 20, 21, 22, 24, 26, 27, 28, 30], j < 32 ∧ sigma hardware j = j := by
      decide
    obtain ⟨hlt, hsigma⟩ := hfixed i hi
    rw [getLsbD_swapResult_eq_sigma hardware_wf x hlt, hsigma]

/-- Settles O34: a permutation of the positions keeps the number of set bits; a fixed word has one free bit for each of the
8 pairs and of the 16 other positions. -/
theorem swapPreservesPopcount : Obligations.SwapPreservesPopcount := by
  refine ⟨fun c h x => ⟨popcount_swapResult h x, swapResult_eq_zero_iff h⟩, by decide,
    fun x => swapResult_eq_self_iff hardware_wf, ?_, fun x hx => ?_, fun x hx => ?_⟩
  · rw [card_fixed hardware_wf, card_lowerIndices_hardware]
  · rw [← swapMask_hardware] at hx
    exact swapResult_eq_self_of_and_swapMask hardware_wf hx
  · fin_cases hx <;> decide

/-- Settles O35: bitwise operations act on each position alone; with the operands 1, 2 and 4 the carry, the product and the
shift leave a position that SWAP moves elsewhere. -/
theorem swapCommutesWithBitwise : Obligations.SwapCommutesWithBitwise :=
  ⟨fun _ h u v => ⟨swapResult_xor h u v, swapResult_and h u v, swapResult_or h u v, swapResult_not h u⟩,
    ⟨1#32, 1#32, by decide⟩, ⟨2#32, 2#32, by decide⟩, ⟨1#32, 1, by decide⟩, ⟨2#32, 1, by decide⟩⟩

/-- Settles O36: the rows of the table, computed, and a word with one set bit under the permutation of positions. -/
theorem swapCornerCases : Obligations.SwapCornerCases := by
  refine ⟨fun r hr => ?_, fun i _ => swapResult_bit hardware_wf i⟩
  fin_cases hr <;> decide

end Sys2Proof
end

section
/-! SUPPORT. CORE for any configuration: what it answers, how the answer is undone, and the prompt 0 (42_compute.md R71, R76 to
R78). -/

namespace Sys2Proof.Machine

/-- The two stages in series (42_compute.md R78). -/
theorem response_eq_swapResult (c : Config) (p : Word) : response c p = swapResult c (mixed c p) := rfl

/-- With the product 0, what MIX gives is its constant. -/
theorem mixed_zero (c : Config) : mixed c 0#32 = c.xorConst := by
  rw [mixed, product_eq_mul, BitVec.zero_mul, BitVec.zero_xor]

theorem response_zero (c : Config) : response c 0#32 = swapResult c c.xorConst := by
  rw [response_eq_swapResult, mixed_zero]

section WellFormed

variable {c : Config} (h : c.WF)

include h

theorem swapResult_response (p : Word) : swapResult c (response c p) = mixed c p := swapResult_involutive h _

section Inverse

variable {u : Word} (hu : c.mulConst * u = 1#32)

include hu

theorem response_bijective : Function.Bijective (response c) :=
  (swapResult_involutive h).bijective.comp (mixed_bijective hu)

/-- The prompt of a response: SWAP undone first, then MIX. -/
theorem response_eq_iff {p y : Word} : response c p = y ↔ p = unmixed c u (swapResult c y) := by
  rw [response_eq_swapResult, (swapResult_involutive h).eq_iff, mixed_eq_iff hu]

end Inverse

end WellFormed

end Sys2Proof.Machine
end

section
/-! SUPPORT. What the environment has after a call line, and after the calls of a ready state (30_encoding.md R50;
70_reset_and_hazards.md R108; log entry 4). -/

namespace Sys2Proof.Machine

theorem run_one_of_step {s t : State} (h : step s = .next t) : run 1 s = .next t :=
  run_succ_of_next h 0

theorem exists_step_of_call {s : State} {dst : Name} {sp : Spelling} {k : Nat} {op : Operand} {rest : List Line} {v : Word}
    (hline : s.waiting = .call dst sp k op :: rest) (hv : HasValue s op v) :
    ∃ t, step s = .next t ∧ t.waiting = rest ∧ t.value dst = some (result hardware (sp.unit.call v)) ∧
      ∀ n, n ≠ dst → t.value n = s.value n :=
  ⟨_, step_of_call_hasValue hline hv, beginCall_waiting dst s hline, value_deliver_self _ (beginCall dst s),
    fun _ hn => value_deliver_ne _ (beginCall dst s) hn⟩

/-- The same of a line that COMPUTEs a literal, by any spelling. -/
theorem exists_step_of_computeLine {s : State} {dst : Name} {sp : Spelling} {k : Nat} {p : Word} {rest : List Line}
    (hsp : sp.unit = .core) (hline : s.waiting = .call dst sp k (.literal p) :: rest) :
    ∃ t, step s = .next t ∧ t.waiting = rest ∧ t.value dst = some (response hardware p) ∧
      ∀ n, n ≠ dst → t.value n = s.value n := by
  have hstep := exists_step_of_call hline (.inl rfl)
  rwa [hsp] at hstep

/-- The calls at the head of a ready state's lines run to the last of them, and a name that none of them binds names what it
named before. -/
theorem run_calls_of_ready : ∀ {ls rest : List Line} {s : State}, s.Ready → s.waiting = ls ++ rest →
    ls.all Line.isCall = true →
    ∃ t, run ls.length s = .next t ∧ t.waiting = rest ∧
      ∀ n, (∀ (sp : Spelling) (k : Nat) (op : Operand), .call n sp k op ∉ ls) → t.value n = s.value n
  | [], _, s, _, hwaiting, _ => ⟨s, run_zero s, hwaiting, fun _ _ => rfl⟩
  | .call dst sp k op :: ls, rest, s, hready, hwaiting, hcalls => by
    rw [List.cons_append] at hwaiting
    obtain ⟨hop, -⟩ := wf_of_ready hready hwaiting
    obtain ⟨v, hv⟩ := exists_hasValue_of_wf hop
    obtain ⟨s', hstep, hwaiting', -, hother⟩ := exists_step_of_call hwaiting hv
    obtain ⟨t, hrun, hrest, hkeeps⟩ := run_calls_of_ready (stepKeepsReady s s' hready hstep) hwaiting' hcalls
    refine ⟨t, (run_succ_of_next hstep _).trans hrun, hrest, fun n hn => ?_⟩
    have hne : n ≠ dst := fun heq => hn sp k op (heq ▸ List.mem_cons_self)
    rw [hkeeps n fun sp k op hmem => hn sp k op (List.mem_cons_of_mem _ hmem), hother n hne]
  | .expect _ _ :: _, _, _, _, _, hcalls => nomatch hcalls

end Sys2Proof.Machine
end

section
/-! SUPPORT. The statements about COMPUTE (42_compute.md R71 to R78; 95_test_vectors.md T10). -/

namespace Sys2Proof

open Machine

/-- Settles O37: the call delivers `S(MIXED)`, whose accumulation takes the two bits of each pair one after the other. -/
theorem computeCallGivesResponse : Obligations.ComputeCallGivesResponse := by
  refine ⟨fun prompt s => ⟨mixed hardware prompt, response hardware prompt, exec_eq_next _ s,
    decode_wiresOfWord .core prompt, onPort_operandPort hardware (.compute prompt),
    onPort_resultPort hardware (.compute prompt), flagsWritten_eq_nil _, mixed_hardware prompt, ?_⟩, by decide⟩
  rw [response_eq_swapResult, swapResult_hardware, swapped_eq_foldl_placeBit]
  rfl

/-- Settles O40: the inverse of the two bijections in series is SWAP, which undoes itself, followed by the inverse of MIX. -/
theorem computeIsBijective : Obligations.ComputeIsBijective := by
  have hwf := hardware_wf
  have hinv := hardware_mulConst_mul_mulInv
  have hbijective := response_bijective hwf hinv
  have hzeros : unmixed hardware mulInv (swapResult hardware 0x00000000#32) = 0x9FFD67ED#32 := by decide
  have hones : unmixed hardware mulInv (swapResult hardware 0xFFFFFFFF#32) = 0x0D339DB2#32 := by decide
  refine ⟨hbijective, fun p => ?_, hbijective.existsUnique, fun p => ?_, fun p => ?_⟩
  · rw [swapResult_response hwf, trunc32_toNat_mul]
    exact (unmixed_mixed hinv p).symm
  · rw [response_eq_iff hwf hinv, hzeros]
  · rw [response_eq_iff hwf hinv, hones]

/-- Settles O41: the wiring is that of the nets; MIX's result reaches SWAP by its name `m`, and the COMPUTE line, with another
name, leaves `y` as it is. -/
theorem twoStageCallsEqualCompute : Obligations.TwoStageCallsEqualCompute := by
  refine ⟨fun p => ⟨rfl, rfl, rfl, rfl, rfl⟩, fun s p m y r j k l rest hyr hwaiting => ?_⟩
  obtain ⟨s₁, hstep₁, hwaiting₁, hm, -⟩ := exists_step_of_call hwaiting (.inl rfl)
  obtain ⟨s₂, hstep₂, hwaiting₂, hy, hother₂⟩ := exists_step_of_call hwaiting₁ (.inr (.inl ⟨m, rfl, hm⟩))
  obtain ⟨t, hstep₃, hrest, hr, hother₃⟩ := exists_step_of_computeLine rfl hwaiting₂
  have hrun : run 3 s = .next t := by
    rw [run_succ_of_next hstep₁, run_succ_of_next hstep₂, run_one_of_step hstep₃]
  have hyt : t.value y = t.value r := ((hother₃ y hyr).trans hy).trans hr.symm
  exact ⟨t, hrun, hrest, hyt, hr, fun hmy hmr => ((hother₃ m hmr).trans (hother₂ m hmy)).trans hm⟩

/-- Settles O42: the response reaches SWAP by its name, and SWAP undoes itself. -/
theorem swapCallUndoesTheSwapStage : Obligations.SwapCallUndoesTheSwapStage := by
  intro s p r y j k rest hwaiting
  obtain ⟨s₁, hstep₁, hwaiting₁, hr, -⟩ := exists_step_of_computeLine rfl hwaiting
  obtain ⟨t, hstep₂, hrest, hy, -⟩ := exists_step_of_call hwaiting₁ (.inr (.inl ⟨r, rfl, hr⟩))
  have hundone : result hardware (.swap (response hardware p)) = mixed hardware p := swapResult_response hardware_wf p
  exact ⟨t, (run_succ_of_next hstep₁ 1).trans (run_one_of_step hstep₂), hrest, hy.trans (congrArg some hundone)⟩

/-- Settles O59: the first name keeps its response through the calls between, which do not bind it, and the second call gives
the same response; from two states each call gives the response of the one prompt. -/
theorem computeTwiceIsIdentical : Obligations.ComputeTwiceIsIdentical := by
  refine ⟨fun s p n₁ n₂ sp₁ sp₂ j k between hsp₁ hsp₂ hwaiting hready hcalls hunbound => ?_,
    fun s₁ s₂ p n₁ n₂ sp₁ sp₂ j k r₁ r₂ hsp₁ hsp₂ hwaiting₁ hwaiting₂ => ?_⟩
  · rw [List.cons_append] at hwaiting
    obtain ⟨s₁, hstep₁, hwaiting₁, hfirst, -⟩ := exists_step_of_computeLine hsp₁ hwaiting
    obtain ⟨s₂, hrun₂, hwaiting₂, hkeeps⟩ := run_calls_of_ready (stepKeepsReady s s₁ hready hstep₁) hwaiting₁ hcalls
    obtain ⟨t, hstep₃, -, hsecond, hother⟩ := exists_step_of_computeLine hsp₂ hwaiting₂
    have hrun : run s.waiting.length s = .next t := by
      rw [hwaiting, List.length_cons, List.length_append, List.length_singleton, run_succ_of_next hstep₁, run_add 1 hrun₂,
        run_one_of_step hstep₃]
    have hn₁ : t.value n₁ = some (response hardware p) := by
      by_cases hn : n₁ = n₂
      · rw [hn, hsecond]
      · rw [hother n₁ hn, hkeeps n₁ hunbound, hfirst]
    exact ⟨t, hrun, hn₁.trans hsecond.symm, hn₁⟩
  · obtain ⟨t₁, hstep₁, -, hvalue₁, -⟩ := exists_step_of_computeLine hsp₁ hwaiting₁
    obtain ⟨t₂, hstep₂, -, hvalue₂, -⟩ := exists_step_of_computeLine hsp₂ hwaiting₂
    exact ⟨t₁, t₂, run_one_of_step hstep₁, run_one_of_step hstep₂, hvalue₁.trans hvalue₂.symm, hvalue₁⟩

/-- Settles O38: the values of the four rows, computed; from every state the call delivers its response. -/
theorem computeEdgeCases : Obligations.ComputeEdgeCases := by
  refine ⟨fun r hr => ?_, fun prompt s => ⟨_, exec_eq_next _ s⟩⟩
  have hvalues : mixed hardware r.1 = r.2.1 ∧ response hardware r.1 = r.2.2 := by
    fin_cases hr <;> decide
  obtain ⟨hmixed, hresponse⟩ := hvalues
  exact ⟨hmixed, fun s => hresponse ▸ exec_eq_next (.compute r.1) s⟩

/-- Settles O39: MIX takes 0 to the constant, and SWAP takes no other word than 0 to 0. -/
theorem computeOfZeroIsNotZero : Obligations.ComputeOfZeroIsNotZero := by
  have hnonzero : ∀ c : Config, c.WF → c.xorConst ≠ 0#32 → response c 0#32 ≠ 0#32 := by
    intro c h hconst
    rwa [response_zero, Ne, swapResult_eq_zero_iff h]
  exact ⟨mixed_zero hardware, response_zero hardware, by decide, hnonzero hardware hardware_wf (by decide), hnonzero⟩

end Sys2Proof
end

section
/-! SUPPORT. Other numbers of the instances: they reach no operand, and every update of the state, every step and every run
leaves them where they are, in the sequence of lines (60_exceptions.md R94; 20_memory.md R32; log entry 11). -/

namespace Sys2Proof.Machine

variable (f : Nat → Nat) (s : State)

@[simp] theorem deliver_renumber (v : Word) : deliver v (s.renumber f) = (deliver v s).renumber f := rfl
@[simp] theorem beginCall_renumber (d : Name) : beginCall d (s.renumber f) = (beginCall d s).renumber f := rfl
@[simp] theorem passLine_renumber : passLine (s.renumber f) = (passLine s).renumber f := rfl

@[simp] theorem operandWires_renumber (op : Operand) : operandWires (s.renumber f) op = operandWires s op := by
  cases op <;> rfl

@[simp] theorem operandValue_renumber (op : Operand) : operandValue (s.renumber f) op = operandValue s op := by
  rw [operandValue, operandWires_renumber, operandValue]

theorem exec_renumber (i : Instr) : exec i (s.renumber f) = mapNext (State.renumber f) (exec i s) := by
  rw [exec_eq_next, exec_eq_next, deliver_renumber, mapNext]

variable {s}

theorem renumber_waiting_cons {l : Line} {rest : List Line} (hline : s.waiting = l :: rest) :
    (s.renumber f).waiting = renumberLine f l :: rest.map (renumberLine f) := by
  rw [renumber_waiting, hline, List.map_cons]

theorem step_renumber_of_call {dst : Name} {sp : Spelling} {k : Nat} {op : Operand} {rest : List Line}
    (hline : s.waiting = .call dst sp k op :: rest) :
    step (s.renumber f) = mapNext (State.renumber f) (step s) := by
  have hline' := renumber_waiting_cons f hline
  have hop := operandWires_renumber f s op
  rcases hws : operandWires s op with r | ws
  · rw [step_of_call_operand_error hline hws, step_of_call_operand_error hline' (hop.trans hws), mapNext]
  · rcases hi : decode sp.unit ws with e | i
    · rw [step_of_call_decode_error hline hws hi, step_of_call_decode_error hline' (hop.trans hws) hi, mapNext]
    · rw [step_of_call hline hws hi, step_of_call hline' (hop.trans hws) hi, beginCall_renumber, exec_renumber]

theorem step_renumber_of_expect {n : Name} {op : Operand} {rest : List Line}
    (hline : s.waiting = .expect n op :: rest) :
    step (s.renumber f) = mapNext (State.renumber f) (step s) := by
  have hline' := renumber_waiting_cons f hline
  have hop := operandValue_renumber f s op
  have hname := renumber_value f s n
  rcases hv : s.value n with _ | v
  · rw [step_of_expect_unbound hline hv, step_of_expect_unbound hline' (hname.trans hv), mapNext]
  · rcases hw : operandValue s op with r | w
    · rw [step_of_expect_operand_error hline hv hw,
        step_of_expect_operand_error hline' (hname.trans hv) (hop.trans hw), mapNext]
    · by_cases h : v = w
      · rw [step_of_expect_eq hline hv hw h, step_of_expect_eq hline' (hname.trans hv) (hop.trans hw) h,
          passLine_renumber, mapNext]
      · rw [step_of_expect_ne hline hv hw h, step_of_expect_ne hline' (hname.trans hv) (hop.trans hw) h, mapNext]

variable (s)

theorem step_renumber : step (s.renumber f) = mapNext (State.renumber f) (step s) := by
  rcases hwaiting : s.waiting with _ | ⟨l, rest⟩
  · have hwaiting' : (s.renumber f).waiting = [] := by rw [renumber_waiting, hwaiting, List.map_nil]
    rw [step_of_waiting_nil hwaiting, step_of_waiting_nil hwaiting', mapNext]
  · cases l with
    | call dst sp k op => exact step_renumber_of_call f hwaiting
    | expect n op => exact step_renumber_of_expect f hwaiting

/-- A run of renumbered lines goes step by step with the run of the lines themselves. -/
theorem run_renumber (k : Nat) : run k (s.renumber f) = mapNext (State.renumber f) (run k s) := by
  induction k generalizing s with
  | zero => rfl
  | succ k ih =>
    have hstep' := step_renumber f s
    rcases hstep : step s with t | r | r <;> rw [hstep, mapNext] at hstep'
    · rw [run_succ_of_next hstep, run_succ_of_next hstep', ih]
    · exact nomatch r
    · rw [run_succ_of_refused hstep, run_succ_of_refused hstep', mapNext]

end Sys2Proof.Machine
end

section
/-! SUPPORT. The statements about exceptions and instances (60_exceptions.md R83, R94). -/

namespace Sys2Proof

open Machine

/-- Settles O60: the instances of the lines are read by nothing, so that one step commutes with the
renumbering, and then a run does. -/
theorem instancesAreInterchangeable : Obligations.InstancesAreInterchangeable :=
  fun f s => ⟨step_renumber f s, run_renumber f s⟩

/-- Settles O44: the list of causes is empty, and a call delivers its result from whatever state it is made. -/
theorem noExceptionIsRaised : Obligations.NoExceptionIsRaised :=
  ⟨⟨nofun⟩, fun i s => ⟨_, exec_eq_next i s⟩, fun _ r => nomatch r⟩

end Sys2Proof
end

section
/-! SUPPORT. The operands that have a value are those of the three forms that present it; and what a run keeps: the sequence of
lines, readiness, and of each name that it is bound or some waiting line will bind it (30_encoding.md R50;
70_reset_and_hazards.md R108). -/

namespace Sys2Proof.Machine

/-- An operand presents a value, or the environment refuses to read it. -/
theorem hasValue_or_operandValue_error (s : State) (op : Operand) :
    (∃ v, HasValue s op v) ∨ ∃ r, operandValue s op = .error r := by
  cases op with
  | literal v => exact .inl ⟨v, .inl rfl⟩
  | name n =>
    rcases hn : s.value n with _ | v
    · exact .inr ⟨_, operandValue_of_operandWires_error (operandWires_of_unbound hn)⟩
    · exact .inl ⟨v, .inr (.inl ⟨n, rfl, hn⟩)⟩
  | wires ws =>
    rcases hws : wordOfWires ws with e | v
    · exact .inr ⟨_, operandValue_of_wordOfWires_error rfl hws⟩
    · exact .inl ⟨v, .inr (.inr (congrArg Operand.wires (wordOfWires_eq_ok.mp hws)))⟩

theorem operandValue_eq_ok {s : State} {op : Operand} {v : Word} : operandValue s op = .ok v ↔ HasValue s op v := by
  refine ⟨fun h => ?_, HasValue.operandValue_eq⟩
  obtain ⟨w, hw⟩ | ⟨r, hr⟩ := hasValue_or_operandValue_error s op
  · obtain rfl : w = v := Except.ok.inj (hw.operandValue_eq.symm.trans h)
    exact hw
  · exact nomatch hr.symm.trans h

theorem run_parameters {s t : State} {k : Nat} (hrun : run k s = .next t) : t.parameters = s.parameters := by
  have hkeeps : ∀ a b : State, a.parameters = s.parameters → step a = .next b → b.parameters = s.parameters := by
    intro a b ha hstep
    obtain ⟨hparameters, -⟩ := stepKeepsNamesCanonical a b hstep
    exact hparameters.trans ha
  exact run_keeps hkeeps k s t rfl hrun

theorem run_ready {s t : State} {k : Nat} (hready : s.Ready) (hrun : run k s = .next t) : t.Ready :=
  run_keeps stepKeepsReady k s t hready hrun

/-- The name is bound, or a call that waits is going to bind it. -/
def BoundOrAwaited (d : Name) (s : State) : Prop :=
  d ∈ s.names.map Prod.fst ∨ ∃ sp k op, .call d sp k op ∈ s.waiting

theorem BoundOrAwaited.bound {d : Name} {s : State} (h : BoundOrAwaited d s) (hwaiting : s.waiting = []) :
    ∃ v, s.value d = some v := by
  obtain hbound | ⟨sp, k, op, hmem⟩ := h
  · exact exists_value_of_mem hbound
  · exact absurd (hwaiting ▸ hmem) List.not_mem_nil

theorem subset_binds (b : List Name) (l : Line) : b ⊆ l.binds b := by
  cases l with
  | call dst sp k op => exact List.subset_cons_self dst b
  | expect n op => exact List.Subset.refl b

/-- A name stays bound, and an awaited one is bound by the step that does its line. -/
theorem BoundOrAwaited.after_step {d : Name} {s t : State} (h : BoundOrAwaited d s) (hstep : step s = .next t) :
    BoundOrAwaited d t := by
  obtain ⟨l, hline⟩ := step_waiting hstep
  have hbinds := binds_subset_of_step hline hstep
  obtain hbound | ⟨sp, k, op, hmem⟩ := h
  · exact .inl (hbinds (subset_binds _ l hbound))
  · rw [hline] at hmem
    obtain rfl | hmem := List.mem_cons.mp hmem
    · exact .inl (hbinds List.mem_cons_self)
    · exact .inr ⟨sp, k, op, hmem⟩

theorem BoundOrAwaited.after_run {d : Name} {s t : State} {k : Nat} (h : BoundOrAwaited d s) (hrun : run k s = .next t) :
    BoundOrAwaited d t :=
  run_keeps (fun _ _ => BoundOrAwaited.after_step) k s t h hrun

end Sys2Proof.Machine
end

section
/-! SUPPORT. The statements about reset, hazards and the end of a run (70_reset_and_hazards.md R98, R99, R105, R108; log
entries 4, 5). -/

namespace Sys2Proof

open Machine

/-- Settles O52: an operand with a value presents it in one of the three forms, so that each step delivers the result of the
one operation on it. -/
theorem resultDependsOnOperandAlone : Obligations.ResultDependsOnOperandAlone := by
  intro s₁ s₂ d₁ d₂ sp₁ sp₂ k₁ k₂ op₁ op₂ v r₁ r₂ hline₁ hline₂ hunit hv₁ hv₂
  obtain ⟨t₁, hstep₁, -, hresult₁, -⟩ := exists_step_of_call hline₁ (operandValue_eq_ok.mp hv₁)
  obtain ⟨t₂, hstep₂, -, hresult₂, -⟩ := exists_step_of_call hline₂ (operandValue_eq_ok.mp hv₂)
  rw [← hunit] at hresult₂
  exact ⟨t₁, t₂, hstep₁, hstep₂, hresult₁.trans hresult₂.symm, hresult₁⟩

/-- Settles O57: the run of the calls reaches the end of the lines, where no name is awaited any more; the block, which stores
nothing, has only one value. -/
theorem readyCallsRunToTheEnd : Obligations.ReadyCallsRunToTheEnd := by
  intro s hready hcalls
  obtain ⟨t, hrun, hend, -⟩ := run_calls_of_ready hready (List.append_nil s.waiting).symm hcalls
  obtain ⟨hinv, -⟩ := run_ready hready hrun
  refine ⟨t, hrun, hend, run_parameters hrun, rfl, hinv, fun d sp k op hmem => ?_⟩
  have hawaited : BoundOrAwaited d s := .inr ⟨sp, k, op, hmem⟩
  exact (hawaited.after_run hrun).bound hend

/-- Settles O54: no name is bound, the place is at the end of the empty sequence, and no line waits. -/
theorem resetMeetsTheInvariants : Obligations.ResetMeetsTheInvariants := by
  have hinv : State.reset.Inv := ⟨List.Pairwise.nil, Nat.le_refl 0⟩
  exact ⟨hinv, hinv, rfl⟩

end Sys2Proof
end
